-- ==== Sys2Proof/Word.lean ====
section
/-! DEFINITION. The word types of the CORE (00_scope.md R8): bytes, transaction words, opcodes, drive indices. -/

namespace Sys2Proof

/-- 8 bits, bit 7 most significant (R8). -/
abbrev Byte := BitVec 8

/-- The 17-bit transaction word `TW` of R71: direction, offset, data. -/
abbrev TransWord := BitVec 17

/-- The opcode of a disk command, bits 6:0 of the command byte (R76). -/
abbrev Opcode := BitVec 7

/-- The index of one of the four drive slots, and of one of the four holding registers (R11, R13). -/
abbrev Slot := BitVec 2

end Sys2Proof
end

