-- ==== Sys2Proof/Config.lean ====
section
/-! DEFINITION. What an implementation fixes (00_scope.md R7) and the free values. An `opaque` constant has no body: no
proof can see its value, so what is proved holds for every value (log 2, 3, 4, 5, 6, 16). -/

namespace Sys2Proof

/-- One slot's geometry table entry `GEOM[d]` (R7), in the widths of the descriptor (R27). -/
structure Geometry where
  ro : Bool
  secsize : BitVec 16
  spt : BitVec 16
  heads : BitVec 16
  cyls : BitVec 17
  deriving DecidableEq, Repr, Inhabited

/-- One answer of the STORE to a request that has an answer: open, read or write (R51, R54, R55). -/
inductive StoreAnswer where
  /-- what the reference store of R51, R54 and R55 answers, from `DISK[d]` -/
  | reference
  /-- any answer the signatures allow (R50): whether an open succeeds, the bytes a read transfers, how many bytes a
  write accepts; the operation cuts the last two to the requested length -/
  | free (ok : Bool) (data : List Byte) (accepted : Nat)
  deriving DecidableEq, Repr, Inhabited

namespace Config

/-- `BASE_PORT`, the 8-bit port address of offset 0: OPEN (R7, log 1). -/
opaque basePort : Byte

/-- By how much `FIFO_CAP` exceeds its least value: OPEN (R7, log 2). -/
opaque fifoSlack : Nat

/-- `FIFO_CAP`: any capacity of at least `MAX_COUNT * 256` = 65,280 bytes (R7). -/
def fifoCap : Nat := fifoSlack + 65280

/-- `GEOM[d].ro`: OPEN for every slot (R7). -/
opaque readOnly : Slot → Bool

/-- The raw choice of `GEOM[1]`, `GEOM[2]`, `GEOM[3]`: OPEN (R7, log 2). -/
opaque openGeometry : Slot → Geometry

/-- The constraint of R7 on a geometry: the drive's bytes fit 32-bit offsets; R27: 0 to 65,536 cylinders. -/
def geometryLegal (g : Geometry) : Bool :=
  decide (g.cyls.toNat * g.heads.toNat * g.spt.toNat * g.secsize.toNat ≤ 2 ^ 32) && decide (g.cyls.toNat ≤ 65536)

/-- `GEOM[d]`: slot 0 has 680 cylinders, 15 heads, 32 sectors of 256 bytes; the others are any legal geometry (R7). -/
def geom (d : Slot) : Geometry :=
  if d = 0 then { ro := readOnly 0, secsize := 256, spt := 32, heads := 15, cyls := 680 }
  else if geometryLegal (openGeometry d) then { openGeometry d with ro := readOnly d }
  else { ro := readOnly d, secsize := 0, spt := 0, heads := 0, cyls := 0 }

/-- The raw choice of `FILL_BYTE`: OPEN (R7, log 2). -/
opaque fillByteRaw : Nat

/-- `FILL_BYTE`: any byte but 0x00 (R7, R169). -/
def fillByte : Byte := BitVec.ofNat 8 (fillByteRaw % 255 + 1)

/-- The raw choice of `FILL_CHUNK`: OPEN (R7, log 2). -/
opaque fillChunkRaw : Nat

/-- The constraint of R7 on `FILL_CHUNK`: it divides the track length of every slot. -/
def fillChunkLegal (n : Nat) : Bool :=
  decide (0 < n) && decide (((geom 0).spt.toNat * (geom 0).secsize.toNat) % n = 0) &&
    decide (((geom 1).spt.toNat * (geom 1).secsize.toNat) % n = 0) &&
    decide (((geom 2).spt.toNat * (geom 2).secsize.toNat) % n = 0) &&
    decide (((geom 3).spt.toNat * (geom 3).secsize.toNat) % n = 0)

/-- `FILL_CHUNK`: any legal chunk size; 1 always is one (R7). -/
def fillChunk : Nat := if fillChunkLegal fillChunkRaw then fillChunkRaw else 1

/-- `REOPEN_ATTEMPTS` (R7, R152). -/
def reopenAttempts : Nat := 10

/-- The bytes of `PARAM_TABLE`: OPEN (R44, R88). -/
opaque paramByte : Nat → Byte

/-- `PARAM_TABLE[0..107]` (R44, R88). -/
def paramTable : List Byte := (List.range 108).map paramByte

/-- `RSVD_READ_BYTE`, a free value for the `n`-th byte the HOST reads (R7 "any value", log 3). -/
opaque reservedReadByte : Nat → Byte

/-- `FIFO_OVERRUN_BYTE`, a free value for the `n`-th byte the HOST reads (R7, R132, log 3). -/
opaque fifoOverrunByte : Nat → Byte

/-- `FIFO[i]` after power-on: unspecified (R21, R32, log 4). -/
opaque fifoPowerOn : Nat → Byte

/-- XCMD, XDRV and the capture latches after power-on: unspecified (R23, R24, R32, log 5). -/
opaque xcmdPowerOn : Opcode
opaque xdrvPowerOn : Slot
opaque capOffPowerOn : Byte
opaque capDataPowerOn : Byte
opaque capIsWritePowerOn : Bool

/-- `DISK[d].media`, a platform input (R30, log 16). -/
opaque mediaPresent : Slot → Bool

/-- The length of drive `d`'s backing file, the platform's (R43, log 16). -/
opaque fileLength : Slot → Nat

/-- The contents of drive `d`'s backing file before the CORE has written to it (R30, log 16). -/
opaque fileByte : Slot → Nat → Byte

/-- The STORE's answer to its `n`-th request, where none is scripted (R50, log 6). -/
opaque storeAnswer : Nat → StoreAnswer

end Config
end Sys2Proof
end

