-- ==== Sys2Proof/Machine/State.lean ====
section
/-! DEFINITION. The state of the CORE (10_state.md R10 to R30), the platform state it reaches (R30), the inputs that are
still to come, the reasons a step can stop, and the state after power-on reset (70_reset_and_hazards.md R226). -/

namespace Sys2Proof.Machine

/-- Four like things, by slot: HOLD[0..3], DRV[0..3], DISK[0..3]. -/
structure Quad (α : Type) where
  s0 : α
  s1 : α
  s2 : α
  s3 : α
  deriving DecidableEq, Repr

/-- A byte array: (index, byte) pairs, indices strictly rising. An index that is not listed was never written. -/
abbrev Memory := List Host.Cell

/-- CAP_DIR, the direction of a bus cycle (R24). -/
inductive BusDir where
  | read
  | write
  deriving DecidableEq, Repr

/-- DBDIR, the direction of the data-bus drivers: `input` is the electrically safe state (R26). -/
inductive BusDrive where
  | input
  | output
  deriving DecidableEq, Repr

/-- DSTATE (R22, R145). -/
inductive DState where
  | idle
  | decoding
  | executing
  deriving DecidableEq, Repr

/-- The step index within `executing`: the numbers of R153's step lists, which start at 3. -/
inductive CmdStep where
  | s3
  | s4
  | s5
  | s6
  deriving DecidableEq, Repr

/-- TF, the committed task file (R12). -/
structure TaskFile where
  command : Byte
  drive : Byte
  cylLo : Byte
  cylHi : Byte
  head : Byte
  sector : Byte
  count : Byte
  spare : Byte
  deriving DecidableEq, Repr

/-- DRV[d], a drive descriptor: configured fields (R27), working fields (R28), ready flag (R29). -/
structure Drive where
  ro : Bool
  secsize : BitVec 16
  spt : BitVec 16
  heads : BitVec 16
  cyls : BitVec 17
  curCyl : BitVec 16
  curHead : Byte
  curSec : Byte
  curSize : BitVec 16
  xfer : Byte
  ready : Bool
  deriving DecidableEq, Repr

/-- DISK[d], the STORE's state for one drive (R30, R43, R51 to R55). -/
structure DiskFile where
  /-- a backing file exists: platform input -/
  media : Bool
  /-- a handle is open -/
  isOpen : Bool
  /-- the mode the handle was opened with is read-only (R51, R55) -/
  roHandle : Bool
  /-- the file position -/
  pos : Nat
  /-- the length of the file, `L` in R54 and R55 -/
  len : Nat
  /-- the bytes of the file written since power-on; the rest are as the platform left them -/
  bytes : Memory
  deriving DecidableEq, Repr

/-- One host bus cycle as the CORE sees it (R95): the port address relative to BASE_PORT (log 1), the direction, and
the byte on the data lines, which means nothing for a read (R97, log 12). -/
structure BusCycle where
  off : Byte
  dir : BusDir
  data : Byte
  deriving DecidableEq, Repr

/-- What the HOST does at a boundary between two steps: present a cycle, or nothing (R6, R60, log 10). -/
inductive HostEvent where
  | cycle (c : BusCycle)
  | quiet
  deriving DecidableEq, Repr

/-- The whole state (R10, R30). The last five fields are the model's own: inputs to come, the record of what the HOST
read, and the numbering of Store requests. -/
structure State where
  /-- HOLD[0..3] (R11) -/
  hold : Quad Byte
  /-- TF (R12) -/
  tf : TaskFile
  /-- SEL (R13) -/
  sel : Slot
  /-- PENDING (R14) -/
  pending : Bool
  /-- RERUN (R15) -/
  rerun : Bool
  /-- STATUS (R16) -/
  status : Byte
  /-- VIOL (R18) -/
  viol : Bool
  /-- OVERRUN (R18) -/
  overrun : Bool
  /-- EXCL (R19) -/
  excl : Bool
  /-- CUR (R20) -/
  cur : Nat
  /-- FIFO[] (R21) -/
  fifo : Memory
  /-- DSTATE (R22) -/
  dstate : DState
  /-- the step index within Executing (R22, R153) -/
  xstep : CmdStep
  /-- XCMD (R23) -/
  xcmd : Opcode
  /-- XDRV (R23) -/
  xdrv : Slot
  /-- CAP_ADDR relative to BASE_PORT (R24, log 1) -/
  capOff : Byte
  /-- CAP_DATA (R24) -/
  capData : Byte
  /-- CAP_DIR (R24) -/
  capDir : BusDir
  /-- WAIT (R25) -/
  wait : Bool
  /-- DBDIR (R26) -/
  dbdir : BusDrive
  /-- DRV[0..3] (R27 to R29) -/
  drv : Quad Drive
  /-- DISK[0..3] (R30) -/
  disk : Quad DiskFile
  /-- what the HOST does next, boundary by boundary (R6, log 10) -/
  hostEvents : List HostEvent
  /-- the bytes the HOST's reads returned, oldest first: `rdata` (R95, R245, log 11) -/
  reads : List Byte
  /-- the STORE's scripted answers, first come first used; past the end `Config.storeAnswer` answers (R50, log 6) -/
  storeAnswers : List StoreAnswer
  /-- how many Store requests have been issued (R50, log 6) -/
  storeReqs : Nat
  /-- the STORE has stopped answering (R154, log 9) -/
  storeStuck : Bool
  deriving DecidableEq, Repr

/-- Why a step can stop with a fault. Both are unreachable from any state the CORE can be in, and both are safe: the
model stops where the spec gives no effect. -/
inductive Fault where
  /-- The capture latches hold an offset of 16 or more while WAIT = 1, which no capture step stores (R96, R97).
  Raised by `step` alone. Safe: unreachable (log 14). -/
  | unselectedCycle
  /-- A block access longer than FIFO_CAP, which R137 and R138 exclude by their `requires`. Raised by READ and WRITE at
  step 4. Safe: unreachable (log 13). -/
  | fifoRange
  deriving DecidableEq, Repr

/-- Why a step can be refused. -/
inductive Refusal where
  /-- The instruction has no meaning in the model yet. Raised by `exec` alone; safe. No arm of `exec` does so. -/
  | notModelled (mnemonic : String)
  deriving DecidableEq, Repr

/-- A descriptor right after reinitialisation: configured fields from the geometry table, working fields 0 (R173). -/
def Drive.fresh (g : Geometry) (ready : Bool) : Drive :=
  { ro := g.ro, secsize := g.secsize, spt := g.spt, heads := g.heads, cyls := g.cyls,
    curCyl := 0, curHead := 0, curSec := 0, curSize := 0, xfer := 0, ready := ready }

/-- The task file after reset: 0x00 in all eight registers (R12). -/
def TaskFile.zero : TaskFile :=
  { command := 0, drive := 0, cylLo := 0, cylHi := 0, head := 0, sector := 0, count := 0, spare := 0 }

/-- Whether power-on reset's open of populated drive `d` succeeds: the answer to Store request number `n` (R51). -/
def powerOnOpen (d : Slot) (n : Nat) : Bool :=
  match Config.storeAnswer n with
  | .reference => Config.mediaPresent d
  | .free ok _ _ => ok

/-- Drive `d`'s file after power-on reset, `isOpen` being the result of its open, false where none is made (R32, log 16).
The position 0 of drives 1 and 2 is the model's choice (log 29). -/
def DiskFile.powerOn (d : Slot) (isOpen : Bool) : DiskFile :=
  { media := Config.mediaPresent d, isOpen := isOpen, roHandle := isOpen && Config.readOnly d, pos := 0,
    len := Config.fileLength d, bytes := [] }

/-- The machine right after power-on reset (R226, R32). POR's Reinit closes and opens drives 0 and 3, Store requests
0 to 3, of which 1 and 3 are the opens (R173). -/
def State.reset : State :=
  { hold := ⟨0, 0, 0, 0⟩
    tf := TaskFile.zero
    sel := 0
    pending := false
    rerun := false
    status := if powerOnOpen 0 1 && powerOnOpen 3 3 then 0x00 else 0x01
    viol := false
    overrun := false
    excl := false
    cur := 0
    fifo := []
    dstate := .idle
    xstep := .s3
    xcmd := Config.xcmdPowerOn
    xdrv := Config.xdrvPowerOn
    capOff := Config.capOffPowerOn
    capData := Config.capDataPowerOn
    capDir := if Config.capIsWritePowerOn then .write else .read
    wait := false
    dbdir := .input
    drv := ⟨Drive.fresh (Config.geom 0) (powerOnOpen 0 1), Drive.fresh (Config.geom 1) false,
      Drive.fresh (Config.geom 2) false, Drive.fresh (Config.geom 3) (powerOnOpen 3 3)⟩
    disk := ⟨DiskFile.powerOn 0 (powerOnOpen 0 1), DiskFile.powerOn 1 false, DiskFile.powerOn 2 false,
      DiskFile.powerOn 3 (powerOnOpen 3 3)⟩
    hostEvents := []
    reads := []
    storeAnswers := []
    storeReqs := 4
    storeStuck := false }

end Sys2Proof.Machine
end

