-- ==== Sys2Proof/Machine/Flags.lean ====
section
/-! DEFINITION. STATUS: the three write operations of R16, the pattern constants of R7, the bit names of R17. -/

namespace Sys2Proof.Machine

/-- `SetPattern(p)`: bits 7 to 1 are the pattern's, the error bit is kept (R16). -/
def setPattern (p st : Byte) : Byte := (p &&& 0xFE) ||| (st &&& 0x01)

/-- `SetError()` (R16). -/
def setErrorBit (st : Byte) : Byte := st ||| 0x01

/-- `ClearError()` (R16). -/
def clearErrorBit (st : Byte) : Byte := st &&& 0xFE

/-- The error bit, bit 0 (R17). -/
def errorBit (st : Byte) : Bool := st.getLsbD 0

/-- The pattern: bits 7 to 1 (R16). -/
def pattern (st : Byte) : Byte := st &&& 0xFE

/-- `ST_CMD`, `ST_PAR`, `ST_ACCEPT`: set by the register file (R7). -/
def stCmd : Byte := 0x30
def stPar : Byte := 0x20
def stAccept : Byte := 0x10

/-- `ST_DATA`, `ST_WDONE`, `ST_FDONE`, `ST_RESET`: set by the dispatcher (R7). -/
def stData : Byte := 0x60
def stWdone : Byte := 0x40
def stFdone : Byte := 0x20
def stReset : Byte := 0x00

/-- The twelve values STATUS can hold (R17): six patterns, each with or without the error bit. -/
def statusLegal (st : Byte) : Bool :=
  decide (pattern st = stReset) || decide (pattern st = stAccept) || decide (pattern st = stPar) ||
    decide (pattern st = stCmd) || decide (pattern st = stWdone) || decide (pattern st = stData)

/-- The whole status byte with a new pattern (R16). -/
def State.setPattern (p : Byte) (s : State) : State := { s with status := Machine.setPattern p s.status }

/-- The state with the error bit set (R16). -/
def State.setError (s : State) : State := { s with status := setErrorBit s.status }

/-- The state with the error bit cleared (R16). -/
def State.clearError (s : State) : State := { s with status := clearErrorBit s.status }

end Sys2Proof.Machine
end

