-- ==== Sys2Proof/Syntax.lean ====
section
/-! DEFINITION. The instructions of the CORE (R70): the fifteen bus transactions of R84 and the seven disk
commands of R83, one constructor per row of spec/opcode_table.json, in the table's order. -/

namespace Sys2Proof

/-- One instruction. The first fifteen are bus transactions (R84), the last seven disk commands (R83). -/
inductive Instr where
  /-- RD0, status read (R111). -/
  | rd0
  /-- WR0.CMD, command burst trigger; `op` is bits 6:0 of the byte written (R76, R114). -/
  | wr0cmd (op : Opcode)
  /-- WR0.PAR, parameter burst trigger; `sector` is bits 6:0 of the byte written (R75, R115). -/
  | wr0par (sector : BitVec 7)
  /-- WR1, holding write (R112). -/
  | wr1 (data : Byte)
  /-- WR2, holding write (R112). -/
  | wr2 (data : Byte)
  /-- WR3, holding write (R112). -/
  | wr3 (data : Byte)
  /-- WR4, cursor reset; the data byte is ignored (R116). -/
  | wr4 (data : Byte)
  /-- RD1, read of a holding offset, no function (R118). -/
  | rd1
  /-- RD2, read of a holding offset, no function (R118). -/
  | rd2
  /-- RD3, read of a holding offset, no function (R118). -/
  | rd3
  /-- RD4, read of the FIFO status offset, inert (R117). -/
  | rd4
  /-- RD8, data-port read (R134). -/
  | rd8
  /-- WR8, data-port write (R135). -/
  | wr8 (data : Byte)
  /-- RDx, reserved read of offset 5 to 7 or 9 to 15 (R119). -/
  | rdx (off : Byte)
  /-- WRx, reserved write of offset 5 to 7 or 9 to 15 (R120). -/
  | wrx (off data : Byte)
  /-- RESET, opcode 0x00 (R166). -/
  | reset
  /-- READ sector, opcode 0x01 (R167). -/
  | read
  /-- WRITE sector, opcode 0x02 (R168). -/
  | write
  /-- FORMAT track, opcode 0x08 (R169). -/
  | format
  /-- Access FIFO, opcode 0x0B (R170). -/
  | fifo
  /-- Read parameters, opcode 0x10 (R171). -/
  | params
  /-- UNKNOWN, any other opcode (R172). -/
  | unknown (op : Opcode)
  deriving DecidableEq, Repr

/-- The bus transactions: the instructions the HANDLER executes (R70). -/
def Instr.isBus : Instr → Bool
  | .rd0 => true
  | .wr0cmd _ => true
  | .wr0par _ => true
  | .wr1 _ => true
  | .wr2 _ => true
  | .wr3 _ => true
  | .wr4 _ => true
  | .rd1 => true
  | .rd2 => true
  | .rd3 => true
  | .rd4 => true
  | .rd8 => true
  | .wr8 _ => true
  | .rdx _ => true
  | .wrx _ _ => true
  | .reset => false
  | .read => false
  | .write => false
  | .format => false
  | .fifo => false
  | .params => false
  | .unknown _ => false

end Sys2Proof
end

