-- ==== Sys2Proof/WellFormed.lean ====
section
/-! DEFINITION. Which terms of `Instr` stand for a word of the table: the catch-all rows RDx, WRx and UNKNOWN take only
what no exact row takes (R85). -/

namespace Sys2Proof

/-- The offsets of the window that are in no row of the register map: 5, 6, 7 and 9 to 15 (R72, R119, R120). -/
def reservedOffset (off : Byte) : Bool :=
  decide (off.toNat < 16) && decide (5 ≤ off.toNat) && !(decide (off = 8))

/-- The six named opcodes of R83. -/
def namedOpcode (op : Opcode) : Bool :=
  decide (op = 0x00) || decide (op = 0x01) || decide (op = 0x02) || decide (op = 0x08) || decide (op = 0x0B) ||
    decide (op = 0x10)

/-- An instruction some word of the opcode table decodes to. -/
def Instr.wellFormed : Instr → Bool
  | .rd0 => true
  | .wr0cmd _ => true
  | .wr0par _ => true
  | .wr1 _ => true
  | .wr2 _ => true
  | .wr3 _ => true
  | .wr4 _ => true
  | .rd1 => true
  | .rd2 => true
  | .rd3 => true
  | .rd4 => true
  | .rd8 => true
  | .wr8 _ => true
  | .rdx off => reservedOffset off
  | .wrx off _ => reservedOffset off
  | .reset => true
  | .read => true
  | .write => true
  | .format => true
  | .fifo => true
  | .params => true
  | .unknown op => !(namedOpcode op)

end Sys2Proof
end

