-- ==== Sys2Proof/Decode.lean ====
section
/-! DEFINITION. The encodings: the transaction word (R71), the offset decode (R72, R84), the command byte and its
opcodes (R76, R83), as a decoder that is total on bytes and rejects by name, and the encoder beside it. -/

namespace Sys2Proof

/-- Why bytes are no instruction. -/
inductive DecodeError where
  /-- the offset is 16 or more: the cycle is not addressed to the CORE (R85, R96) -/
  | notSelected
  /-- bits above bit 16 of a three-byte transaction word are set: it is no 17-bit word (R71) -/
  | wideWord
  /-- neither one byte (a disk command) nor three (a transaction word) -/
  | badLength
  deriving DecidableEq, Repr

/-- Bit 16 of the transaction word: 1 = write, HOST to CORE (R71). -/
def wordIsWrite (w : TransWord) : Bool := w.getLsbD 16

/-- Bits 15:8 of the transaction word: the port offset (R71). -/
def wordOffset (w : TransWord) : Byte := w.extractLsb' 8 8

/-- Bits 7:0 of the transaction word: the data byte (R71). -/
def wordData (w : TransWord) : Byte := w.extractLsb' 0 8

/-- The transaction word `TW` of its three fields (R71). -/
def transWord (isWrite : Bool) (off data : Byte) : TransWord :=
  (BitVec.ofBool isWrite ++ off ++ data : BitVec (1 + 8 + 8))

/-- A byte written to offset 0: bit 7 says which burst, bits 6:0 are its first field (R74, R75, R76). -/
def triggerByte (isCommand : Bool) (low : BitVec 7) : Byte :=
  (BitVec.ofBool isCommand ++ low : BitVec (1 + 7))

/-- Bits 6:0 of a byte: the opcode of a command byte (R76) or the sector of a trigger byte (R75). -/
def low7 (b : Byte) : BitVec 7 := b.extractLsb' 0 7

/-- The transaction a write of `data` to offset 0 is: bit 7 selects the kind of burst (R73, R87, R113). -/
def decodeTrigger (data : Byte) : Instr :=
  if data.getLsbD 7 then .wr0cmd (low7 data) else .wr0par (low7 data)

/-- The bus transaction of a write (R84), the offset known to be below 16. -/
def decodeWrite (off data : Byte) : Instr :=
  if off = 0 then decodeTrigger data
  else if off = 1 then .wr1 data
  else if off = 2 then .wr2 data
  else if off = 3 then .wr3 data
  else if off = 4 then .wr4 data
  else if off = 8 then .wr8 data
  else .wrx off data

/-- The bus transaction of a read (R84), the offset known to be below 16; the data field is ignored (R71). -/
def decodeRead (off : Byte) : Instr :=
  if off = 0 then .rd0
  else if off = 1 then .rd1
  else if off = 2 then .rd2
  else if off = 3 then .rd3
  else if off = 4 then .rd4
  else if off = 8 then .rd8
  else .rdx off

/-- The number of consecutive port addresses the CORE answers, `N_OFFSETS` = 16 (R7). -/
abbrev nOffsets : Nat := 16

/-- The CORE is selected when the offset is below `N_OFFSETS` (R96). -/
def selectedOffset (off : Byte) : Bool := decide (off.toNat < nOffsets)

/-- Decode one bus transaction (R72, R84, R85). -/
def decodeBus (w : TransWord) : Except DecodeError Instr :=
  if selectedOffset (wordOffset w) then
    .ok (if wordIsWrite w then decodeWrite (wordOffset w) (wordData w) else decodeRead (wordOffset w))
  else .error .notSelected

/-- `OP_RESET` … `OP_PARAMS` (R7, R83). -/
def opReset : Opcode := 0x00
def opRead : Opcode := 0x01
def opWrite : Opcode := 0x02
def opFormat : Opcode := 0x08
def opFifo : Opcode := 0x0B
def opParams : Opcode := 0x10

/-- Decode the 7-bit opcode of a disk command: six named values, the other 122 UNKNOWN (R83, R149). -/
def decodeCommand (op : Opcode) : Instr :=
  if op = opReset then .reset
  else if op = opRead then .read
  else if op = opWrite then .write
  else if op = opFormat then .format
  else if op = opFifo then .fifo
  else if op = opParams then .params
  else .unknown op

/-- Decode bytes: one byte is a command byte, whose bit 7 is not part of the opcode (R76); three bytes are a
transaction word, the least significant byte first (log 23). -/
def decode : List Byte → Except DecodeError Instr
  | [c] => .ok (decodeCommand (low7 c))
  | [b0, b1, b2] =>
    if b2.toNat < 2 then decodeBus (transWord (b2.getLsbD 0) b1 b0) else .error .wideWord
  | _ => .error .badLength

/-- The bytes of an instruction whose bits, numbered as the opcode table numbers them, are `w`. -/
def tableBytes : Nat → Nat → List Byte
  | 0, _ => []
  | n + 1, w => BitVec.ofNat 8 w :: tableBytes n (w / 256)

/-- What the decoder reads from the table word `w` of `nbits` bits: 8 for a command row, 24 for a bus row. -/
def decodeTableWord (nbits w : Nat) : Option Instr :=
  match decode (tableBytes ((nbits + 7) / 8) w) with
  | .ok i => some i
  | .error _ => none

/-! ## The encoder -/

/-- The two formats of the opcode table: `BUS`, a 17-bit transaction word, and `CMD`, a 7-bit opcode (R85). -/
inductive Code where
  | bus (w : TransWord)
  | cmd (op : Opcode)
  deriving DecidableEq, Repr

/-- The word of an instruction (R71, R83, R84); a read carries 0x00 in its data field (R71). -/
def encode : Instr → Code
  | .rd0 => .bus (transWord false 0 0)
  | .wr0cmd op => .bus (transWord true 0 (triggerByte true op))
  | .wr0par sector => .bus (transWord true 0 (triggerByte false sector))
  | .wr1 data => .bus (transWord true 1 data)
  | .wr2 data => .bus (transWord true 2 data)
  | .wr3 data => .bus (transWord true 3 data)
  | .wr4 data => .bus (transWord true 4 data)
  | .rd1 => .bus (transWord false 1 0)
  | .rd2 => .bus (transWord false 2 0)
  | .rd3 => .bus (transWord false 3 0)
  | .rd4 => .bus (transWord false 4 0)
  | .rd8 => .bus (transWord false 8 0)
  | .wr8 data => .bus (transWord true 8 data)
  | .rdx off => .bus (transWord false off 0)
  | .wrx off data => .bus (transWord true off data)
  | .reset => .cmd opReset
  | .read => .cmd opRead
  | .write => .cmd opWrite
  | .format => .cmd opFormat
  | .fifo => .cmd opFifo
  | .params => .cmd opParams
  | .unknown op => .cmd op

/-- The bytes of a code: a transaction word in three bytes, the least significant first; a command as the byte the
HOST writes to offset 0, bit 7 set (R76, R83). -/
def Code.bytes : Code → List Byte
  | .bus w => [wordData w, wordOffset w, (BitVec.ofBool (wordIsWrite w)).setWidth 8]
  | .cmd op => [triggerByte true op]

/-- The opcode-table row an instruction belongs to, as `(mask, match)` over its word (spec/opcode_table.json, R85). -/
def tableRow : Instr → Nat × Nat
  | .rd0 => (0x1FF00, 0x00000)
  | .wr0cmd _ => (0x1FF80, 0x10080)
  | .wr0par _ => (0x1FF80, 0x10000)
  | .wr1 _ => (0x1FF00, 0x10100)
  | .wr2 _ => (0x1FF00, 0x10200)
  | .wr3 _ => (0x1FF00, 0x10300)
  | .wr4 _ => (0x1FF00, 0x10400)
  | .rd1 => (0x1FF00, 0x00100)
  | .rd2 => (0x1FF00, 0x00200)
  | .rd3 => (0x1FF00, 0x00300)
  | .rd4 => (0x1FF00, 0x00400)
  | .rd8 => (0x1FF00, 0x00800)
  | .wr8 _ => (0x1FF00, 0x10800)
  | .rdx _ => (0x1F000, 0x00000)
  | .wrx _ _ => (0x1F000, 0x10000)
  | .reset => (0x7F, 0x00)
  | .read => (0x7F, 0x01)
  | .write => (0x7F, 0x02)
  | .format => (0x7F, 0x08)
  | .fifo => (0x7F, 0x0B)
  | .params => (0x7F, 0x10)
  | .unknown _ => (0x00, 0x00)

/-- The number of a code's word: the 17-bit or the 7-bit value. -/
def Code.toNat : Code → Nat
  | .bus w => BitVec.toNat w
  | .cmd op => BitVec.toNat op

end Sys2Proof
end

