-- ==== Sys2Proof/Machine/Operands.lean ====
section
/-! DEFINITION. Operand assembly (R79 to R82), the two bursts (R74, R75), lengths (R58), the CHS/N validation (R56) and
the CHS to byte-offset translation (R57). -/

namespace Sys2Proof.Machine

/-- The four holding registers or descriptors by index. -/
def Quad.get {α : Type} (q : Quad α) (d : Slot) : α :=
  if d = 0 then q.s0 else if d = 1 then q.s1 else if d = 2 then q.s2 else q.s3

/-- Write one of four. -/
def Quad.set {α : Type} (q : Quad α) (d : Slot) (x : α) : Quad α :=
  { s0 := if d = 0 then x else q.s0
    s1 := if d = 1 then x else q.s1
    s2 := if d = 2 then x else q.s2
    s3 := if d = 3 then x else q.s3 }

/-- `DriveDecode(b)` = `b[1:0]`; bits 7:2 are ignored (R81, log 28). -/
def driveDecode (b : Byte) : Slot := b.extractLsb' 0 2

/-- The cylinder: `TF.cyl_hi << 8 | TF.cyl_lo` (R79, R45). -/
def cylinderOf (tf : TaskFile) : BitVec 16 := (tf.cylHi ++ tf.cylLo : BitVec (8 + 8))

/-- The sector count: 0 means 1 (R80). -/
def sectorCount (count : Byte) : Byte := if count = 0 then 1 else count

/-- `CMD_SECTOR_SIZE(op)`: 256 for every opcode (R82). -/
def cmdSectorSize (_op : Opcode) : BitVec 16 := 256

/-- `SECTOR_SHIFT` (R7). -/
def sectorShift : Nat := 8

/-- A command burst's copy of HOLD into the first four task-file registers (R74, R114). -/
def TaskFile.commitCommand (tf : TaskFile) (hold : Quad Byte) : TaskFile :=
  { tf with command := hold.s0, drive := hold.s1, cylLo := hold.s2, cylHi := hold.s3 }

/-- A parameter burst's copy of HOLD into the last four task-file registers (R75, R115). -/
def TaskFile.commitParameters (tf : TaskFile) (hold : Quad Byte) : TaskFile :=
  { tf with sector := hold.s0, head := hold.s1, count := hold.s2, spare := hold.s3 }

/-- The opcode of the committed command: the low 7 bits of `TF.command` (R76). -/
def TaskFile.opcode (tf : TaskFile) : Opcode := low7 tf.command

/-- The decode step's snapshot of the task file into a descriptor's working fields (R147). -/
def Drive.loadWorking (v : Drive) (tf : TaskFile) : Drive :=
  { v with
    curCyl := cylinderOf tf
    curHead := tf.head
    curSec := tf.sector
    xfer := sectorCount tf.count
    curSize := cmdSectorSize tf.opcode }

/-- The configured fields of a descriptor, as a geometry table entry (R27). -/
def Drive.geometry (v : Drive) : Geometry :=
  { ro := v.ro, secsize := v.secsize, spt := v.spt, heads := v.heads, cyls := v.cyls }

/-- `Validate(d)` passes: the four conditions of R56 and no other. -/
def Drive.valid (v : Drive) : Bool :=
  decide (v.curCyl.toNat < v.cyls.toNat) && decide (v.curHead.toNat < v.heads.toNat) &&
    decide (v.curSec.toNat < v.spt.toNat) && decide (v.curSize = v.secsize)

/-- The linear sector number of R57, from the configured heads and sectors per track. -/
def Drive.linearSector (v : Drive) : Nat :=
  (v.curCyl.toNat * v.heads.toNat + v.curHead.toNat) * v.spt.toNat + v.curSec.toNat

/-- `Offset(d)`: the byte offset in the backing file (R57). -/
def Drive.byteOffset (v : Drive) : Nat := v.linearSector <<< sectorShift

/-- The transfer length of Read and Write (R58). -/
def Drive.transferLength (v : Drive) : Nat := v.xfer.toNat * v.curSize.toNat

/-- The track length of Format (R58). -/
def Drive.trackLength (v : Drive) : Nat := v.spt.toNat * v.curSize.toNat

/-- The lengths of Format's consecutive fill chunks: `FILL_CHUNK` bytes each, the last one what is left (R169). -/
def fillChunks (track chunk : Nat) : List Nat :=
  List.replicate (track / chunk) chunk ++ (if track % chunk = 0 then [] else [track % chunk])

/-- `CAP_ADDR` itself: the latched port address (R24, log 1). -/
def State.capAddr (s : State) : Byte := Config.basePort + s.capOff

/-- The cycle the HOST presents at port address `addr`: the offset is `(addr - BASE_PORT) & 0xFF` (R96, log 1). -/
def BusCycle.atPort (addr : Byte) (dir : BusDir) (data : Byte) : BusCycle :=
  { off := addr - Config.basePort, dir := dir, data := data }

end Sys2Proof.Machine
end

