-- ==== Sys2Proof/Machine/Ops.lean ====
section
/-! DEFINITION. The shared operations: byte arrays, the FIFO primitives (42_fifo.md), the Store requests (20_memory.md R50 to
R55), reporting a condition (60_exceptions.md R190), entering and leaving the service of a bus cycle
(40_bus_capture.md). -/

namespace Sys2Proof.Machine

/-! ## Byte arrays -/

/-- The byte written at an index, if one was. -/
def Memory.read? : Memory → Nat → Option Byte
  | [], _ => none
  | (k, v) :: m, a => if k = a then some v else Memory.read? m a

/-- Write one byte, keeping the indices strictly rising. -/
def Memory.write : Memory → Nat → Byte → Memory
  | [], a, b => [(a, b)]
  | (k, v) :: m, a, b =>
    if a < k then (a, b) :: (k, v) :: m
    else if a = k then (a, b) :: m
    else (k, v) :: Memory.write m a b

/-- Write a run of bytes in ascending order from an index (R45). -/
def Memory.writeRun : Memory → Nat → List Byte → Memory
  | m, _, [] => m
  | m, a, b :: bs => Memory.writeRun (Memory.write m a b) (a + 1) bs

/-- The canonical form: indices strictly rising. An unlisted index holds no written byte, so no entry can repeat what
an unlisted index reads as (log 4). -/
abbrev Memory.wf (m : Memory) : Prop := (m.map Prod.fst).Pairwise (· < ·)

/-- `FIFO[i]`: the byte written there, else the unspecified power-on byte (R21, log 4). -/
def State.fifoByte (s : State) (i : Nat) : Byte := (s.fifo.read? i).getD (Config.fifoPowerOn i)

/-- Byte `k` of drive `d`'s backing file: the byte written there, else what the platform left (R43, log 16). -/
def DiskFile.byteAt (f : DiskFile) (d : Slot) (k : Nat) : Byte := (f.bytes.read? k).getD (Config.fileByte d k)

/-! ## Descriptors and files -/

/-- Rewrite one descriptor. -/
def State.setDrive (d : Slot) (v : Drive) (s : State) : State := { s with drv := s.drv.set d v }

/-- Rewrite one backing file's state. -/
def State.setDisk (d : Slot) (f : DiskFile) (s : State) : State := { s with disk := s.disk.set d f }

/-- `DRV[d].ready <- b` (R29). -/
def State.setReady (d : Slot) (b : Bool) (s : State) : State :=
  s.setDrive d { s.drv.get d with ready := b }

/-! ## Reporting a condition: this hardware's exception (R190)

No condition transfers control; what happens next is the raising rule's. -/

/-- The seven conditions of R190. -/
inductive Condition where
  | geometryError
  | shortIO
  | mediaAbsent (d : Slot)
  | protocolViolation
  | unknownCommand
  | fifoOverrun
  | reopenFailed (d : Slot)
  deriving DecidableEq, Repr

/-- `raise X(info)`: exactly the action of R190's table. -/
def raise (c : Condition) (s : State) : State :=
  match c with
  | .geometryError => s.setError
  | .shortIO => s.setError
  | .mediaAbsent d => s.setError.setReady d false
  | .protocolViolation => { s with viol := true }
  | .unknownCommand => s
  | .fifoOverrun => { s with overrun := true }
  | .reopenFailed d => s.setError.setReady d false

/-! ## FIFO primitives (R131 to R138) -/

/-- `reset()`: CUR <- 0 (R131). -/
def fifoReset (s : State) : State := { s with cur := 0 }

/-- The byte `read_next()` returns (R132); at capacity a free value (R136, log 3). -/
def fifoNextByte (s : State) : Byte :=
  if s.cur < Config.fifoCap then s.fifoByte s.cur else Config.fifoOverrunByte s.reads.length

/-- What `read_next()` does to the state (R132, R136). -/
def fifoReadNext (s : State) : State :=
  if s.cur < Config.fifoCap then { s with cur := s.cur + 1 } else raise .fifoOverrun s

/-- `write_next(b)` (R133, R136). -/
def fifoWriteNext (b : Byte) (s : State) : State :=
  if s.cur < Config.fifoCap then { s with fifo := s.fifo.write s.cur b, cur := s.cur + 1 }
  else raise .fifoOverrun s

/-- `BulkIn(data, n)`: FIFO[0..n-1] <- data, CUR unchanged (R137). -/
def bulkIn (data : List Byte) (s : State) : State := { s with fifo := s.fifo.writeRun 0 data }

/-- `BulkOut(n)`: FIFO[0], …, FIFO[n-1] (R138). -/
def bulkOut (n : Nat) (s : State) : List Byte := (List.range n).map s.fifoByte

/-! ## Store requests (R50 to R55)

Every request counts in `storeReqs`; a request with an answer takes the next scripted one, or else the free one. -/

/-- The STORE's next answer (log 6). -/
def State.nextAnswer (s : State) : StoreAnswer :=
  match s.storeAnswers with
  | a :: _ => a
  | [] => Config.storeAnswer s.storeReqs

/-- A request without an answer is issued. -/
def State.issue (s : State) : State := { s with storeReqs := s.storeReqs + 1 }

/-- A request is issued and its answer taken. -/
def State.issueAnswered (s : State) : State :=
  { s with storeReqs := s.storeReqs + 1, storeAnswers := s.storeAnswers.tail }

/-- `StoreClose(d)` (R53). -/
def storeClose (d : Slot) (s : State) : State :=
  s.issue.setDisk d { s.disk.get d with isOpen := false }

/-- Whether an open answered by `a` succeeds; the reference store opens a file that exists (R51). -/
def answerOpens (a : StoreAnswer) (media : Bool) : Bool :=
  match a with
  | .reference => media
  | .free ok _ _ => ok

/-- Whether `StoreOpen(d)` succeeds (R51). -/
def openOk (d : Slot) (s : State) : Bool := answerOpens s.nextAnswer (s.disk.get d).media

/-- `StoreOpen(d, mode(d))` (R51): the mode is the read-only flag's; the position is 0 (log 19). -/
def storeOpen (d : Slot) (s : State) : State :=
  s.issueAnswered.setDisk d
    { s.disk.get d with isOpen := openOk d s, roHandle := openOk d s && (s.drv.get d).ro, pos := 0 }

/-- `StoreSeek(d, off)`: nothing on a closed handle (R52, R53). -/
def storeSeek (d : Slot) (off : Nat) (s : State) : State :=
  s.issue.setDisk d { s.disk.get d with pos := if (s.disk.get d).isOpen then off else (s.disk.get d).pos }

/-- The bytes `StoreRead(d, len)` answers; `actual` is how many (R54); none on a closed handle (R52). -/
def readData (d : Slot) (len : Nat) (s : State) : List Byte :=
  if (s.disk.get d).isOpen then
    match s.nextAnswer with
    | .reference =>
      (List.range (min len ((s.disk.get d).len - (s.disk.get d).pos))).map
        fun k => (s.disk.get d).byteAt d ((s.disk.get d).pos + k)
    | .free _ data _ => data.take len
  else []

/-- What `StoreRead(d, len)` does to the state: the position moves past the bytes read (R54). -/
def storeRead (d : Slot) (len : Nat) (s : State) : State :=
  s.issueAnswered.setDisk d { s.disk.get d with pos := (s.disk.get d).pos + (readData d len s).length }

/-- How many of `len` bytes a write answered by `a` accepts on an open handle with `room` bytes left before the file's end;
the reference store takes what fits, and nothing on a read-only handle (R55). -/
def answerAccepts (a : StoreAnswer) (readOnly : Bool) (room len : Nat) : Nat :=
  match a with
  | .reference => if readOnly then 0 else min len room
  | .free _ _ accepted => min accepted len

/-- How many of `len` bytes `StoreWrite(d, …, len)` accepts, its `actual` (R55); none on a closed handle (R52). -/
def writeCount (d : Slot) (len : Nat) (s : State) : Nat :=
  if (s.disk.get d).isOpen then
    answerAccepts s.nextAnswer (s.disk.get d).roHandle ((s.disk.get d).len - (s.disk.get d).pos) len
  else 0

/-- The length of a file after `n` bytes were accepted at its position: a byte accepted past the end grows it (log 7), and a
write that accepts nothing changes nothing (R55). -/
def DiskFile.grown (f : DiskFile) (n : Nat) : Nat := if n = 0 then f.len else max f.len (f.pos + n)

/-- A file after `n` bytes of `data` were accepted at its position (R55, log 7). -/
def DiskFile.accept (f : DiskFile) (data : List Byte) (n : Nat) : DiskFile :=
  { f with bytes := f.bytes.writeRun f.pos (data.take n), pos := f.pos + n, len := f.grown n }

/-- What `StoreWrite(d, data, len)` does to the state (R55), `len` being the length of `data`. -/
def storeWrite (d : Slot) (data : List Byte) (s : State) : State :=
  s.issueAnswered.setDisk d ((s.disk.get d).accept data (writeCount d data.length s))

/-! ## A bus cycle: capture, data phase, completion (R97, R98, R101, R204, R205) -/

/-- The capture step's writes for a selected cycle: the latches and WAIT, nothing else (R97). -/
def captureCycle (c : BusCycle) (s : State) : State :=
  { s with capOff := c.off, capDir := c.dir, capData := c.data, wait := true }

/-- The HOST presents a cycle: captured if it selects the CORE, else not seen (R96, R97). -/
def presentCycle (c : BusCycle) (s : State) : State :=
  if selectedOffset c.off then captureCycle c s else s

/-- The data phase of a read: the drivers turn to output and the HOST latches the byte (R98, R101). -/
def driveRead (v : Byte) (s : State) : State := { s with dbdir := .output, reads := s.reads ++ [v] }

/-- The end of every service step: DBDIR <- input, then WAIT <- 0 (R101), the return of R205. -/
def endService (s : State) : State := { s with dbdir := .input, wait := false }

/-- The service of a read whose routed operation returned `v` (R98). -/
def finishRead (v : Byte) (s : State) : State := endService (driveRead v s)

/-- The transaction word in the capture latches (R71, R98). -/
def State.fetchWord (s : State) : TransWord :=
  transWord (match s.capDir with | .write => true | .read => false) s.capOff s.capData

end Sys2Proof.Machine
end

