-- ==== Sys2Proof/Machine/Dispatcher.lean ====
section
/-! DEFINITION. The command dispatcher (43_dispatcher.md): entry, decode, dispatch, completion, abort, the reopen sequence,
reinitialisation (44_commands.md R173), and power-on reset (70_reset_and_hazards.md R226). -/

namespace Sys2Proof.Machine

/-- One critical section: EXCL is 1 from the start of the step to its end (R19, R153). -/
def critical (f : State → State) (s : State) : State :=
  { f { s with excl := true } with excl := false }

/-- A step that issues Store requests: if the STORE has stopped answering, the dispatcher never leaves the step, and EXCL
stays 1 where the step is a critical section (R154, log 9). -/
def awaitStore (inCritical : Bool) (s t : State) : State :=
  if s.storeStuck then { s with excl := s.excl || inCritical } else t

/-- `Finish()` (R150): PENDING is cleared unless a Reset is to be re-run (R157); the dispatcher returns to Idle. -/
def finish (s : State) : State :=
  { s with pending := if s.rerun then s.pending else false, rerun := false, dstate := .idle }

/-- `Complete(p)` (R150). -/
def complete (p : Byte) (s : State) : State := finish (s.setPattern p)

/-- `Abort()` (R151): the error bit, no pattern, no Store request. -/
def abort (s : State) : State := finish (raise .geometryError s)

/-- `Decode()` (R147): the snapshot of the task file into XCMD, XDRV and the selected drive's working fields. -/
def decodeTaskFile (s : State) : State :=
  { s with
    xcmd := s.tf.opcode
    xdrv := s.sel
    drv := s.drv.set s.sel ((s.drv.get s.sel).loadWorking s.tf) }

/-- The Entry step (R146): the decode and DSTATE <- Decoding, one critical section; PENDING is not cleared. -/
def entryStep (s : State) : State := critical (fun u => { decodeTaskFile u with dstate := .decoding }) s

/-- The Dispatch step (R148): DSTATE <- Executing, at the first of the command's own steps (R153). -/
def dispatchStep (s : State) : State := { s with dstate := .executing, xstep := .s3 }

/-- Read's, Write's and Format's step 3 (R56, R151, R153): a pass clears the error bit and goes on, a fail aborts. -/
def validateStep (s : State) : State :=
  if (s.drv.get s.xdrv).valid then { s.clearError with xstep := .s4 } else abort s

/-- `raise ShortIO` when the actual length differs from the requested one (R192). -/
def noteShort (actual len : Nat) (s : State) : State := if actual = len then s else raise .shortIO s

/-- The open attempts of `Reopen(d)` that are left: the first success ends them, running out of them is a
reopen failure (R152). -/
def reopenLoop (d : Slot) : Nat → State → State
  | 0, s => raise (.reopenFailed d) s
  | n + 1, s => if openOk d s then (storeOpen d s).setReady d true else reopenLoop d n (storeOpen d s)

/-- `Reopen(d)` (R152): close, then up to `REOPEN_ATTEMPTS` opens. -/
def reopen (d : Slot) (s : State) : State :=
  reopenLoop d Config.reopenAttempts ((storeClose d s).setReady d false)

/-- Write's and Format's step 5: `Reopen(d)`, all its store calls in one step as R153's table has it (log 27), then on to
the completion step. -/
def reopenStep (s : State) : State := { reopen s.xdrv s with xstep := .s6 }

/-- Format's fill: consecutive writes of the given lengths, the first short one ending them (R169). -/
def fillTrack (d : Slot) : List Nat → State → State
  | [], s => s
  | n :: ns, s =>
    if writeCount d n s = n then fillTrack d ns (storeWrite d (List.replicate n Config.fillByte) s)
    else raise .shortIO (storeWrite d (List.replicate n Config.fillByte) s)

/-- Reinitialisation's open of a populated drive: close, one open attempt, ready <- ok, MediaAbsent if not (R173). -/
def openPopulated (d : Slot) (s : State) : State :=
  if openOk d (storeClose d s) then (storeOpen d (storeClose d s)).setReady d true
  else raise (.mediaAbsent d) ((storeOpen d (storeClose d s)).setReady d false)

/-- An unpopulated drive is closed after a reset (R32), and the dispatcher reaches it by Store requests only (R31): where its
file is open it is closed by one, otherwise no request is issued (R173, log 8). -/
def closeUnpopulated (d : Slot) (s : State) : State := if (s.disk.get d).isOpen then storeClose d s else s

/-- The first part of `Reinit()` (R173): Controller State and the descriptors. -/
def reinitControl (s : State) : State :=
  { s with
    hold := ⟨0, 0, 0, 0⟩
    tf := TaskFile.zero
    sel := 0
    pending := false
    rerun := false
    status := 0
    drv := ⟨Drive.fresh (Config.geom 0) false, Drive.fresh (Config.geom 1) false, Drive.fresh (Config.geom 2) false,
      Drive.fresh (Config.geom 3) false⟩ }

/-- `Reinit()` (R173): drives 1 and 2 left closed (R32, log 8), drives 0 and 3 opened. -/
def reinit (s : State) : State :=
  openPopulated 3 (openPopulated 0 (closeUnpopulated 2 (closeUnpopulated 1 (reinitControl s))))

/-- `POR()` (R226): what power-on does to whatever the state was. -/
def powerOnReset (s : State) : State :=
  reinit { s with
    wait := false
    dbdir := .input
    excl := false
    cur := 0
    overrun := false
    viol := false
    dstate := .idle }

end Sys2Proof.Machine
end

