-- ==== Sys2Proof/Machine/Arbiter.lean ====
section
/-! DEFINITION. Which agent takes the next step (R60, R104, R202), and how an instruction is placed where the next step
fetches it (R70, log 20). -/

namespace Sys2Proof.Machine

/-- Whose step is next. -/
inductive Turn where
  /-- the HANDLER services the captured cycle (R98) -/
  | service
  /-- the HOST presents a cycle (R97) -/
  | present (c : BusCycle)
  /-- the DISPATCHER (R153) -/
  | dispatcher
  deriving DecidableEq, Repr

/-- A captured cycle is serviced first unless EXCL = 1 (R104, R202); while WAIT = 1 the HOST presents nothing (R61); a
presented cycle is captured before the dispatcher goes on; otherwise the dispatcher has the turn (log 10). -/
def nextTurn (s : State) : Turn :=
  if s.wait then (if s.excl then .dispatcher else .service)
  else
    match s.hostEvents with
    | .cycle c :: _ => .present c
    | .quiet :: _ => .dispatcher
    | [] => .dispatcher

/-- The boundary's host event is used up; while WAIT = 1 the HOST is paused (R61). -/
def takeEvent (s : State) : State := if s.wait then s else { s with hostEvents := s.hostEvents.tail }

/-- The dispatcher's poll at Idle: the Entry step if PENDING = 1, else no change (R146, R156). -/
def pollStep (s : State) : State := if s.pending then entryStep s else s

/-- A captured bus transaction with its word in the latches, awaiting service (R97, log 20). -/
def placeTransaction (w : TransWord) (s : State) : State :=
  { s with
    capOff := wordOffset w
    capDir := if wordIsWrite w then .write else .read
    capData := wordData w
    wait := true
    excl := false }

/-- A boundary at which the HOST presents nothing comes first (log 20). -/
def quietFirst (es : List HostEvent) : List HostEvent :=
  match es with
  | .cycle c :: rest => .quiet :: .cycle c :: rest
  | .quiet :: rest => .quiet :: rest
  | [] => []

/-- A disk command in the task file, fetched: what the Entry, Decode and Dispatch steps leave, with the turn at the
dispatcher (R146 to R148, R64, log 20). -/
def placeCommand (op : Opcode) (s : State) : State :=
  dispatchStep (entryStep { s with
    tf := { s.tf with command := triggerByte true op }
    pending := true
    wait := false
    hostEvents := quietFirst s.hostEvents })

end Sys2Proof.Machine
end

