-- ==== Sys2Proof/Machine/Commands.lean ====
section
/-! DEFINITION. The seven disk commands (44_commands.md). A command's meaning is ONE atomic dispatcher step, the one at the
current step index of its step list (43_dispatcher.md R153); the dispatcher takes the next one on its next turn. An
index past a command's last step is unreachable and taken as the last step (log 15). -/

namespace Sys2Proof.Machine

/-- RESET's one step (R166): reinitialise, pattern 0x00, Finish, all in one critical section. -/
def resetStep (s : State) : State := critical (fun u => finish ((reinit u).setPattern stReset)) s

/-- RESET, opcode 0x00 (R166). -/
def execReset (s : State) : Host.Outcome State Fault Refusal := .next (awaitStore true s (resetStep s))

/-- The state in which Read's step 4 issues its StoreRead: after the seek (R167). -/
def readSeek (s : State) : State := storeSeek s.xdrv (s.drv.get s.xdrv).byteOffset s

/-- The bytes Read's step 4 gets from the STORE; `actual` is their number (R167). -/
def readTransferData (s : State) : List Byte :=
  readData s.xdrv (s.drv.get s.xdrv).transferLength (readSeek s)

/-- READ's step 4 (R167): seek, read, BulkIn, ShortIO if short, one critical section. -/
def readTransfer (s : State) : State :=
  critical
    (fun u =>
      { noteShort (readTransferData u).length (u.drv.get u.xdrv).transferLength
          (bulkIn (readTransferData u) (storeRead u.xdrv (u.drv.get u.xdrv).transferLength (readSeek u))) with
        xstep := .s5 })
    s

/-- READ sector, opcode 0x01 (R167). -/
def execRead (s : State) : Host.Outcome State Fault Refusal :=
  match s.xstep with
  | .s3 => .next (validateStep s)
  | .s4 =>
    if (readTransferData s).length ≤ Config.fifoCap then .next (awaitStore true s (readTransfer s))
    else .fault .fifoRange
  | .s5 => .next (critical (complete stData) s)
  | .s6 => .next (critical (complete stData) s)

/-- The state in which Write's step 4 issues its StoreWrite: after the seek (R168). -/
def writeSeek (s : State) : State := storeSeek s.xdrv (s.drv.get s.xdrv).byteOffset s

/-- How many bytes the STORE accepts in Write's step 4 (R168). -/
def writeTransferCount (s : State) : Nat :=
  writeCount s.xdrv (s.drv.get s.xdrv).transferLength (writeSeek s)

/-- WRITE's step 4 (R168): BulkOut, seek, write, ShortIO if short, one critical section. -/
def writeTransfer (s : State) : State :=
  critical
    (fun u =>
      { noteShort (writeTransferCount u) (u.drv.get u.xdrv).transferLength
          (storeWrite u.xdrv (bulkOut (u.drv.get u.xdrv).transferLength u) (writeSeek u)) with
        xstep := .s5 })
    s

/-- WRITE sector, opcode 0x02 (R168). -/
def execWrite (s : State) : Host.Outcome State Fault Refusal :=
  match s.xstep with
  | .s3 => .next (validateStep s)
  | .s4 =>
    if (s.drv.get s.xdrv).transferLength ≤ Config.fifoCap then .next (awaitStore true s (writeTransfer s))
    else .fault .fifoRange
  | .s5 => .next (awaitStore false s (reopenStep s))
  | .s6 => .next (critical (complete stWdone) s)

/-- Format forces the working sector to 0 before the validation (R169). -/
def clearSector (s : State) : State := s.setDrive s.xdrv { s.drv.get s.xdrv with curSec := 0 }

/-- FORMAT's step 4 (R169): one seek, then the chunk writes, one step and no critical section, as R153's table has it and
not a step for each store call (log 27). -/
def fillStep (s : State) : State :=
  { fillTrack s.xdrv (fillChunks (s.drv.get s.xdrv).trackLength Config.fillChunk)
      (storeSeek s.xdrv (s.drv.get s.xdrv).byteOffset s) with xstep := .s5 }

/-- FORMAT track, opcode 0x08 (R169). -/
def execFormat (s : State) : Host.Outcome State Fault Refusal :=
  match s.xstep with
  | .s3 => .next (validateStep (clearSector s))
  | .s4 => .next (awaitStore false s (fillStep s))
  | .s5 => .next (awaitStore false s (reopenStep s))
  | .s6 => .next (critical (complete stFdone) s)

/-- Access FIFO, opcode 0x0B (R170): CUR <- 0 and the completion, one critical section. -/
def execFifo (s : State) : Host.Outcome State Fault Refusal :=
  .next (critical (fun u => complete stFdone (fifoReset u)) s)

/-- Read parameters' step 3 (R171): the table into FIFO[0..107]; the log line is dropped (log 17). -/
def paramsTransfer (s : State) : State := critical (fun u => { bulkIn Config.paramTable u with xstep := .s4 }) s

/-- Read parameters, opcode 0x10 (R171). -/
def execParams (s : State) : Host.Outcome State Fault Refusal :=
  match s.xstep with
  | .s3 => .next (paramsTransfer s)
  | .s4 => .next (critical (complete stData) s)
  | .s5 => .next (critical (complete stData) s)
  | .s6 => .next (critical (complete stData) s)

/-- UNKNOWN, any other opcode (R172, R195): completes with 0x60, nothing else. -/
def execUnknown (_op : Opcode) (s : State) : Host.Outcome State Fault Refusal :=
  .next (critical (fun u => complete stData (raise .unknownCommand u)) s)

end Sys2Proof.Machine
end

