-- ==== Sys2Proof/Machine/DataPort.lean ====
section
/-! DEFINITION. The two data-port transactions (42_fifo.md R134, R135), which bypass the register file (R99, R100). -/

namespace Sys2Proof.Machine

/-- RD8: returns FIFO[CUR] and advances CUR; at capacity the access is clamped (R134, R132, R136). -/
def execRd8 (s : State) : Host.Outcome State Fault Refusal := .next (finishRead (fifoNextByte s) (fifoReadNext s))

/-- WR8: FIFO[CUR] <- data and CUR advances; at capacity the byte is discarded (R135, R133, R136). -/
def execWr8 (data : Byte) (s : State) : Host.Outcome State Fault Refusal := .next (endService (fifoWriteNext data s))

end Sys2Proof.Machine
end

