-- ==== Sys2Proof/Machine/RegisterFile.lean ====
section
/-! DEFINITION. The register-file transactions (41_register_file.md): every read and write of an offset other than 8, each
with the completion of its service step (40_bus_capture.md R98, R101). -/

namespace Sys2Proof.Machine

/-- `HOLD[i] <- b` (R112). -/
def holdWrite (i : Slot) (b : Byte) (s : State) : State := { s with hold := s.hold.set i b }

/-- `CommandBurst()` (R114): commits HOLD, selects the drive unless the opcode is Read parameters, pattern 0x30. -/
def commandBurst (s : State) : State :=
  { s with
    tf := s.tf.commitCommand s.hold
    sel := if (s.tf.commitCommand s.hold).opcode = opParams then s.sel
      else driveDecode (s.tf.commitCommand s.hold).drive
    status := setPattern stCmd s.status }

/-- The part of `ParameterBurst()` before PENDING is looked at (R115): commits HOLD, pattern 0x20. -/
def commitParameterBurst (s : State) : State :=
  { s with tf := s.tf.commitParameters s.hold, status := setPattern stPar s.status }

/-- `ParameterBurst()` (R115): starts the command if none is pending, else accepts a Reset silently, else reports a
protocol violation. -/
def parameterBurst (s : State) : State :=
  if s.pending = false then
    { commitParameterBurst s with status := setPattern stAccept (setPattern stPar s.status), pending := true }
  else if s.tf.opcode = opReset then { commitParameterBurst s with rerun := true }
  else raise .protocolViolation (commitParameterBurst s)

/-- A read with no function: no side effect; the byte is `RSVD_READ_BYTE`, a free value (R117 to R119, log 3). -/
def reservedRead (s : State) : State := finishRead (Config.reservedReadByte s.reads.length) s

/-- RD0: returns the live STATUS (R111). -/
def execRd0 (s : State) : Host.Outcome State Fault Refusal := .next (finishRead s.status s)

/-- RD1: no function (R118). -/
def execRd1 (s : State) : Host.Outcome State Fault Refusal := .next (reservedRead s)

/-- RD2: no function (R118). -/
def execRd2 (s : State) : Host.Outcome State Fault Refusal := .next (reservedRead s)

/-- RD3: no function (R118). -/
def execRd3 (s : State) : Host.Outcome State Fault Refusal := .next (reservedRead s)

/-- RD4: inert; in particular CUR is not reset (R117). -/
def execRd4 (s : State) : Host.Outcome State Fault Refusal := .next (reservedRead s)

/-- RDx: no function at any reserved offset (R119). -/
def execRdx (_off : Byte) (s : State) : Host.Outcome State Fault Refusal := .next (reservedRead s)

/-- WR1: HOLD[1] <- data (R112). -/
def execWr1 (data : Byte) (s : State) : Host.Outcome State Fault Refusal := .next (endService (holdWrite 1 data s))

/-- WR2: HOLD[2] <- data (R112). -/
def execWr2 (data : Byte) (s : State) : Host.Outcome State Fault Refusal := .next (endService (holdWrite 2 data s))

/-- WR3: HOLD[3] <- data (R112). -/
def execWr3 (data : Byte) (s : State) : Host.Outcome State Fault Refusal := .next (endService (holdWrite 3 data s))

/-- WR4: CUR <- 0, the data ignored (R116). -/
def execWr4 (_data : Byte) (s : State) : Host.Outcome State Fault Refusal := .next (endService (fifoReset s))

/-- WRx: ignored at any reserved offset (R120). -/
def execWrx (_off _data : Byte) (s : State) : Host.Outcome State Fault Refusal := .next (endService s)

/-- WR0.CMD: HOLD[0] <- data, then the command burst (R113, R114). -/
def execWr0cmd (op : Opcode) (s : State) : Host.Outcome State Fault Refusal :=
  .next (endService (commandBurst (holdWrite 0 (triggerByte true op) s)))

/-- WR0.PAR: HOLD[0] <- data, then the parameter burst (R113, R115). -/
def execWr0par (sector : BitVec 7) (s : State) : Host.Outcome State Fault Refusal :=
  .next (endService (parameterBurst (holdWrite 0 (triggerByte false sector) s)))

end Sys2Proof.Machine
end

