-- ==== Sys2Proof/Machine/Dispatch.lean ====
section
/-! DEFINITION. One arm per instruction: each a direct call of its meaning. -/

namespace Sys2Proof.Machine

def exec (i : Instr) (s : State) : Host.Outcome State Fault Refusal :=
  match i with
  | .rd0 => Sys2Proof.Machine.execRd0 s
  | .wr0cmd op => Sys2Proof.Machine.execWr0cmd op s
  | .wr0par sector => Sys2Proof.Machine.execWr0par sector s
  | .wr1 data => Sys2Proof.Machine.execWr1 data s
  | .wr2 data => Sys2Proof.Machine.execWr2 data s
  | .wr3 data => Sys2Proof.Machine.execWr3 data s
  | .wr4 data => Sys2Proof.Machine.execWr4 data s
  | .rd1 => Sys2Proof.Machine.execRd1 s
  | .rd2 => Sys2Proof.Machine.execRd2 s
  | .rd3 => Sys2Proof.Machine.execRd3 s
  | .rd4 => Sys2Proof.Machine.execRd4 s
  | .rd8 => Sys2Proof.Machine.execRd8 s
  | .wr8 data => Sys2Proof.Machine.execWr8 data s
  | .rdx off => Sys2Proof.Machine.execRdx off s
  | .wrx off data => Sys2Proof.Machine.execWrx off data s
  | .reset => Sys2Proof.Machine.execReset s
  | .read => Sys2Proof.Machine.execRead s
  | .write => Sys2Proof.Machine.execWrite s
  | .format => Sys2Proof.Machine.execFormat s
  | .fifo => Sys2Proof.Machine.execFifo s
  | .params => Sys2Proof.Machine.execParams s
  | .unknown op => Sys2Proof.Machine.execUnknown op s

end Sys2Proof.Machine
end

