-- ==== Sys2Proof/Machine/Step.lean ====
section
/-! DEFINITION. One atomic step of one agent (R60), and placing an instruction where the next step fetches it. -/

namespace Sys2Proof.Machine

/-- The HANDLER's service step (R98): the captured transaction runs. -/
def serviceTurn (s : State) : Host.Outcome State Fault Refusal :=
  match decodeBus s.fetchWord with
  | .ok i => exec i s
  | .error _ => .fault .unselectedCycle

/-- The DISPATCHER's step by DSTATE (R145): poll and Entry, Dispatch, or the running command's next step. -/
def dispatcherTurn (s : State) : Host.Outcome State Fault Refusal :=
  match s.dstate with
  | .idle => .next (pollStep s)
  | .decoding => .next (dispatchStep s)
  | .executing => exec (decodeCommand s.xcmd) s

/-- One atomic step of the machine (R60). -/
def step (s : State) : Host.Outcome State Fault Refusal :=
  match nextTurn s with
  | .service => serviceTurn s
  | .present c => .next (presentCycle c (takeEvent s))
  | .dispatcher => dispatcherTurn (takeEvent s)

/-- `s` with the instruction whose table word is `w` where the next step fetches it: a bus transaction (more than 8 bits)
in the capture latches, a disk command as the fetched command (log 20). -/
def State.withFetchWord (s : State) (nbits w : Nat) : State :=
  if nbits ≤ 8 then placeCommand (BitVec.ofNat 7 w) s else placeTransaction (BitVec.ofNat 17 w) s

end Sys2Proof.Machine
end

