-- ==== Sys2Proof/Safety.lean ====
section
/-! DEFINITION. What claims are stated in: the legal states, the end of a run (70_reset_and_hazards.md R245), a kept protocol
(10_state.md R18), and the groups of fields a step leaves alone (R31). -/

namespace Sys2Proof.Machine

/-- The number R153 gives a step index. -/
def CmdStep.number : CmdStep → Nat
  | .s3 => 3
  | .s4 => 4
  | .s5 => 5
  | .s6 => 6

/-- The number of a command's last step in R153's table; 0 for a bus transaction. -/
def lastStep : Instr → Nat
  | .rd0 => 0
  | .wr0cmd _ => 0
  | .wr0par _ => 0
  | .wr1 _ => 0
  | .wr2 _ => 0
  | .wr3 _ => 0
  | .wr4 _ => 0
  | .rd1 => 0
  | .rd2 => 0
  | .rd3 => 0
  | .rd4 => 0
  | .rd8 => 0
  | .wr8 _ => 0
  | .rdx _ => 0
  | .wrx _ _ => 0
  | .reset => 3
  | .read => 5
  | .write => 6
  | .format => 6
  | .fifo => 3
  | .params => 4
  | .unknown _ => 3

/-- The commands that call `Validate` (R56). -/
def validates (i : Instr) : Prop := i = .read ∨ i = .write ∨ i = .format

/-- The states the CORE can be in: what every step keeps and reset establishes. -/
structure Legal (s : State) : Prop where
  /-- `CUR <= FIFO_CAP` (R20, R139) -/
  cursorWithin : s.cur ≤ Config.fifoCap
  /-- the FIFO's byte list is canonical -/
  fifoCanonical : s.fifo.wf
  /-- nothing is stored past the FIFO's end (R139) -/
  fifoWithin : ∀ i, Config.fifoCap ≤ i → s.fifo.read? i = none
  /-- every backing file's byte list is canonical -/
  diskCanonical : ∀ d, (s.disk.get d).bytes.wf
  /-- STATUS holds one of the twelve values (R17) -/
  statusTwelve : statusLegal s.status = true
  /-- while no command is pending the dispatcher is idle (R155) -/
  idleUnlessPending : s.pending = false → s.dstate = .idle
  /-- a re-run is owed only while a command is pending (R15) -/
  rerunOnlyPending : s.rerun = true → s.pending = true
  /-- only selected cycles are captured (R96, R97) -/
  capturedSelected : s.wait = true → selectedOffset s.capOff = true
  /-- the data-bus drivers are safe between steps (R26, R101) -/
  busSafe : s.dbdir = .input
  /-- `TF.sector[7]` is 0 (R12) -/
  sectorLow : s.tf.sector.getLsbD 7 = false
  /-- the configured fields are the geometry tables' (R27) -/
  configured : ∀ d, (s.drv.get d).geometry = Config.geom d
  /-- the sector size in use is the commands' 256, or 0 since a reset (R28, R82) -/
  sizeKnown : ∀ d, (s.drv.get d).curSize = 0 ∨ (s.drv.get d).curSize = 256
  /-- a drive is ready exactly when its file is open (R29) -/
  readyOpen : ∀ d, (s.drv.get d).ready = (s.disk.get d).isOpen
  /-- EXCL is 0 between steps unless a critical section never ends (R19, R154) -/
  exclStuck : s.excl = true → s.storeStuck = true
  /-- the step index is one of the running command's steps (R153) -/
  stepListed : s.dstate = .executing → s.xstep.number ≤ lastStep (decodeCommand s.xcmd)
  /-- past step 3, Read, Write and Format work on a validated address (R56, R151) -/
  validated : s.dstate = .executing → validates (decodeCommand s.xcmd) → s.xstep ≠ .s3 →
    (s.drv.get s.xdrv).valid = true

/-- The dispatcher has the turn at the next boundary, and `es` is what is then left of the HOST's input list: nothing is
presented, or the captured cycle is shut out by EXCL (R60 to R62, R104, log 10). -/
def DispatcherHasTurn (s : State) (es : List HostEvent) : Prop :=
  (s.wait = false ∧ s.hostEvents = [] ∧ es = []) ∨ (s.wait = false ∧ s.hostEvents = .quiet :: es) ∨
    (s.wait = true ∧ s.excl = true ∧ es = s.hostEvents)

/-- The host kept the protocol (R18). -/
def ProtocolKept (s : State) : Prop := s.viol = false ∧ s.overrun = false

/-- The end of a run (R245): the host program is used up and nothing is owed. -/
def RunEnded (s : State) : Prop :=
  s.hostEvents = [] ∧ s.wait = false ∧ s.dstate = .idle ∧ s.pending = false ∧ s.rerun = false

/-! ## Frames -/

/-- Controller State (R11 to R16) is unchanged. -/
def SameController (s t : State) : Prop :=
  t.hold = s.hold ∧ t.tf = s.tf ∧ t.sel = s.sel ∧ t.pending = s.pending ∧ t.rerun = s.rerun ∧ t.status = s.status

/-- VIOL and OVERRUN (R18) are unchanged. -/
def SameLatches (s t : State) : Prop := t.viol = s.viol ∧ t.overrun = s.overrun

/-- CUR and every byte of the FIFO (R20, R21) are unchanged. -/
def SameFifo (s t : State) : Prop := t.cur = s.cur ∧ ∀ i, t.fifoByte i = s.fifoByte i

/-- DSTATE, the step index, XCMD and XDRV (R22, R23) are unchanged. -/
def SameSequencer (s t : State) : Prop :=
  t.dstate = s.dstate ∧ t.xstep = s.xstep ∧ t.xcmd = s.xcmd ∧ t.xdrv = s.xdrv

/-- The capture latches (R24) are unchanged, and so is what the HOST has still to present. -/
def SameCapture (s t : State) : Prop :=
  t.capOff = s.capOff ∧ t.capData = s.capData ∧ t.capDir = s.capDir ∧ t.hostEvents = s.hostEvents

/-- WAIT, DBDIR and the bytes the HOST has read (R25, R26, R95) are unchanged. -/
def SameBus (s t : State) : Prop := t.wait = s.wait ∧ t.dbdir = s.dbdir ∧ t.reads = s.reads

/-- The bytes of drive `d`'s backing file, its length and medium, are unchanged. -/
def SameFile (d : Slot) (s t : State) : Prop :=
  (∀ k, (t.disk.get d).byteAt d k = (s.disk.get d).byteAt d k) ∧ (t.disk.get d).len = (s.disk.get d).len ∧
    (t.disk.get d).media = (s.disk.get d).media

/-- No Store request was issued and the STORE's state is unchanged (R30, R50). -/
def SameStore (s t : State) : Prop :=
  t.disk = s.disk ∧ t.storeAnswers = s.storeAnswers ∧ t.storeReqs = s.storeReqs ∧ t.storeStuck = s.storeStuck

/-- Nothing of the CORE but WAIT, DBDIR and the HOST's record changed: what a transaction without function leaves. -/
def OnlyBusChanged (s t : State) : Prop :=
  SameController s t ∧ SameLatches s t ∧ t.excl = s.excl ∧ SameFifo s t ∧ SameSequencer s t ∧ SameCapture s t ∧
    t.drv = s.drv ∧ SameStore s t

/-- What no disk command touches: VIOL, OVERRUN, the capture latches, the bus (R31, R106). -/
def HandlerSideSame (s t : State) : Prop := SameLatches s t ∧ SameCapture s t ∧ SameBus s t

/-- What no bus transaction touches: the dispatcher's state, the descriptors, the STORE, EXCL (R31, R103, R106). -/
def DispatcherSideSame (s t : State) : Prop :=
  SameSequencer s t ∧ t.drv = s.drv ∧ SameStore s t ∧ t.excl = s.excl

/-- What `Finish` leaves (R150): the dispatcher idle, PENDING kept only where a Reset is to be re-run. -/
def Finished (s t : State) : Prop :=
  t.dstate = .idle ∧ t.rerun = false ∧ t.pending = (s.rerun && s.pending)

/-- The service of a bus cycle has ended: WAIT and DBDIR released (R101). -/
def Released (t : State) : Prop := t.wait = false ∧ t.dbdir = .input

end Sys2Proof.Machine
end

