-- ==== Sys2Proof/Certificates/Slice0/Obligations.lean ====
section
/-! DEFINITION. The statements for the provers. Each docstring names the rule of spec/ it formalises, or says that it is the
model's own. -/

open Sys2Proof Sys2Proof.Machine

/-! ## Encodings -/

/-- R71, R76, R83, R84: no operand of any instruction is lost between its word and the instruction decoded from it. -/
def Obligations.DecodeEncodeEveryInstruction : Prop :=
  ∀ i : Instr, i.wellFormed = true → decode (encode i).bytes = .ok i

/-- R71, R96: a selected word is the word of the instruction it decodes to, but for a read's data field, which is
ignored; a word whose offset is 16 or more is refused by name. -/
def Obligations.EncodeDecodeEveryWord : Prop :=
  (∀ (w : TransWord) (i : Instr), decodeBus w = .ok i →
    encode i = .bus (transWord (wordIsWrite w) (wordOffset w) (if wordIsWrite w then wordData w else 0))) ∧
  (∀ w : TransWord, transWord (wordIsWrite w) (wordOffset w) (wordData w) = w) ∧
  (∀ w : TransWord, 16 ≤ (wordOffset w).toNat → decodeBus w = .error .notSelected) ∧
  (∀ op : Opcode, encode (decodeCommand op) = .cmd op)

/-- R85: every selected transaction word and every opcode decodes to a well-formed instruction, whose row of the opcode
table (mask and match) the word fits. -/
def Obligations.EveryWordFitsItsTableRow : Prop :=
  (∀ w : TransWord, (wordOffset w).toNat < 16 → ∃ i, decodeBus w = .ok i ∧ i.isBus = true ∧ i.wellFormed = true ∧
    w.toNat &&& (tableRow i).1 = (tableRow i).2) ∧
  (∀ op : Opcode, (decodeCommand op).isBus = false ∧ (decodeCommand op).wellFormed = true ∧
    op.toNat &&& (tableRow (decodeCommand op)).1 = (tableRow (decodeCommand op)).2)

/-- R83: the six named opcodes, and the other 122 values unknown. -/
def Obligations.OpcodeMapSixNamedRestUnknown : Prop :=
  decodeCommand 0x00 = .reset ∧ decodeCommand 0x01 = .read ∧ decodeCommand 0x02 = .write ∧
  decodeCommand 0x08 = .format ∧ decodeCommand 0x0B = .fifo ∧ decodeCommand 0x10 = .params ∧
  (∀ op : Opcode, namedOpcode op = false → decodeCommand op = .unknown op) ∧
  ((List.range 128).filter fun n => !(namedOpcode (BitVec.ofNat 7 n))).length = 122

/-- Words written out from the spec's own table V-TW of 95_test_vectors.md decode to the rows it names. -/
def Obligations.SpecVectorWordsDecode : Prop :=
  decodeBus 0x00000#17 = .ok .rd0 ∧ decodeBus 0x10082#17 = .ok (.wr0cmd 0x02) ∧
  decodeBus 0x1007F#17 = .ok (.wr0par 0x7F) ∧ decodeBus 0x102A7#17 = .ok (.wr2 0xA7) ∧
  decodeBus 0x104FF#17 = .ok (.wr4 0xFF) ∧ decodeBus 0x00800#17 = .ok .rd8 ∧
  decodeBus 0x10F12#17 = .ok (.wrx 0x0F 0x12) ∧ decodeBus 0x11000#17 = .error .notSelected

/-! ## Steps and agents -/

/-- The bytes in the capture latches are the fields of the word the service step decodes (R71, R98). -/
def Obligations.FetchWordIsTheCaptureLatches : Prop :=
  ∀ s : State, wordIsWrite s.fetchWord = decide (s.capDir = .write) ∧ wordOffset s.fetchWord = s.capOff ∧
    wordData s.fetchWord = s.capData

/-- A step runs the decoded bus transaction: with a captured cycle and no critical section open, before anything else
(R98; that it goes first is the order the model takes of the two R104 allows, log 10). -/
def Obligations.StepServicesCapturedTransaction : Prop :=
  ∀ (s : State) (i : Instr), s.wait = true → s.excl = false → decodeBus s.fetchWord = .ok i → step s = exec i s

/-- A step runs the fetched disk command's next step when the dispatcher has the turn (R145, R153): no cycle captured
and none presented, or the captured cycle shut out by EXCL. When a cycle is presented is the model's input list (log 10). -/
def Obligations.StepRunsFetchedCommand : Prop :=
  (∀ s : State, s.wait = false → s.hostEvents = [] → s.dstate = .executing →
    step s = exec (decodeCommand s.xcmd) s) ∧
  (∀ (s : State) (rest : List HostEvent), s.wait = false → s.hostEvents = .quiet :: rest → s.dstate = .executing →
    step s = exec (decodeCommand s.xcmd) { s with hostEvents := rest }) ∧
  (∀ s : State, s.wait = true → s.excl = true → s.dstate = .executing → step s = exec (decodeCommand s.xcmd) s)

/-- The model's fetch interface: a bus transaction placed by its table word is what the next step runs, from any state
(log 20). -/
def Obligations.PlacedTransactionRunsNext : Prop :=
  ∀ (s : State) (i : Instr), i.isBus = true → i.wellFormed = true →
    step (s.withFetchWord 24 (encode i).toNat) = exec i (s.withFetchWord 24 (encode i).toNat)

/-- R97: the capture step latches the cycle and asserts WAIT, whatever EXCL is, and changes nothing else. That a read
latches its record's data byte is the model's (R97 gives a read none; log 12), and so is that a cycle at the head of the
input list is captured at this boundary, before the dispatcher goes on, and is used up (log 10). -/
def Obligations.CaptureLatchesCycleAndStalls : Prop :=
  ∀ (s : State) (addr data : Byte) (dir : BusDir) (rest : List HostEvent),
    s.wait = false → s.hostEvents = .cycle (BusCycle.atPort addr dir data) :: rest →
    (addr - Config.basePort).toNat < 16 →
    ∃ t, step s = .next t ∧ t.capAddr = addr ∧ t.capDir = dir ∧ t.capData = data ∧ t.wait = true ∧
      t.hostEvents = rest ∧ t.dbdir = s.dbdir ∧ t.reads = s.reads ∧ t.excl = s.excl ∧
      SameController s t ∧ SameLatches s t ∧ SameFifo s t ∧ SameSequencer s t ∧ t.drv = s.drv ∧ SameStore s t

/-- R96: a bus cycle outside the window is not seen; the HOST has merely presented it. That the cycle at the head of the
input list takes this boundary, before the dispatcher goes on, and is used up is the model's choice (log 10). -/
def Obligations.UnselectedCycleChangesNothing : Prop :=
  ∀ (s : State) (addr data : Byte) (dir : BusDir) (rest : List HostEvent),
    s.wait = false → s.hostEvents = .cycle (BusCycle.atPort addr dir data) :: rest →
    16 ≤ (addr - Config.basePort).toNat → step s = .next { s with hostEvents := rest }

/-- R146, R147: the Entry step snapshots the task file into XCMD, XDRV and the selected drive's working fields and goes
to Decoding; PENDING stays (the step index waits for the Dispatch step, log 5). `es` is what is left of the model's input
list once the dispatcher has the turn: the boundary is quiet, or the captured cycle is shut out (log 10). -/
def Obligations.EntryStepSnapshotsTaskFile : Prop :=
  ∀ (s : State) (es : List HostEvent), DispatcherHasTurn s es → s.dstate = .idle → s.pending = true →
    ∃ t, step s = .next t ∧ t.dstate = .decoding ∧ t.xcmd = low7 s.tf.command ∧ t.xdrv = s.sel ∧
      (t.drv.get s.sel).curCyl.toNat = s.tf.cylHi.toNat * 256 + s.tf.cylLo.toNat ∧
      (t.drv.get s.sel).curHead = s.tf.head ∧ (t.drv.get s.sel).curSec = s.tf.sector ∧
      (t.drv.get s.sel).xfer = (if s.tf.count = 0 then 1 else s.tf.count) ∧ (t.drv.get s.sel).curSize = 256 ∧
      (t.drv.get s.sel).geometry = (s.drv.get s.sel).geometry ∧ (t.drv.get s.sel).ready = (s.drv.get s.sel).ready ∧
      (∀ d, d ≠ s.sel → t.drv.get d = s.drv.get d) ∧ t.excl = false ∧ t.xstep = s.xstep ∧
      SameController s t ∧ SameFifo s t ∧ SameStore s t ∧ HandlerSideSame { s with hostEvents := es } t

/-- R148: the Dispatch step changes no state but DSTATE (and starts the step list at its first step). `es` is what is left
of the model's input list (log 10). -/
def Obligations.DispatchStepStartsTheCommand : Prop :=
  ∀ (s : State) (es : List HostEvent), DispatcherHasTurn s es → s.dstate = .decoding →
    ∃ t, step s = .next t ∧ t.dstate = .executing ∧ t.xstep = .s3 ∧ t.xcmd = s.xcmd ∧ t.xdrv = s.xdrv ∧
      t.drv = s.drv ∧ t.excl = s.excl ∧ SameController s t ∧ SameFifo s t ∧ SameStore s t ∧
      HandlerSideSame { s with hostEvents := es } t

/-- R156: with nothing pending the idle dispatcher changes no state, whether the HOST is quiet or its captured cycle is
shut out. That a quiet boundary of the input list is used up is the model's choice (log 10). -/
def Obligations.IdleDispatcherChangesNothing : Prop :=
  (∀ s : State, s.wait = false → s.hostEvents = [] → s.dstate = .idle → s.pending = false → step s = .next s) ∧
  (∀ (s : State) (rest : List HostEvent), s.wait = false → s.hostEvents = .quiet :: rest → s.dstate = .idle →
    s.pending = false → step s = .next { s with hostEvents := rest }) ∧
  (∀ s : State, s.wait = true → s.excl = true → s.dstate = .idle → s.pending = false → step s = .next s)

/-! ## Bus transactions -/

/-- R111: RD0, the word 0x00000, returns the live STATUS and has no side effect; the service step ends with the bus
released. -/
def Obligations.StatusReadReturnsStatus : Prop :=
  decodeBus 0x00000#17 = .ok .rd0 ∧
  ∀ s : State, ∃ t, exec .rd0 s = .next t ∧ t.reads = s.reads ++ [s.status] ∧ Released t ∧ OnlyBusChanged s t

/-- R117, R118, R119: reads with no function complete, return one byte and change nothing else. Which byte is the
model's free value (log 3). -/
def Obligations.ReservedReadsHaveNoSideEffect : Prop :=
  ∀ (s : State) (i : Instr) (off : Byte), (i = .rd1 ∨ i = .rd2 ∨ i = .rd3 ∨ i = .rd4 ∨ i = .rdx off) →
    ∃ t, exec i s = .next t ∧ t.reads = s.reads ++ [Config.reservedReadByte s.reads.length] ∧ Released t ∧
      OnlyBusChanged s t

/-- R112: a holding write (a write of offset 1, 2 or 3) stores its byte in its holding register; nothing else changes. -/
def Obligations.HoldingWritesStoreTheirByte : Prop :=
  (∀ data : Byte, decodeBus (transWord true 1 data) = .ok (.wr1 data) ∧
    decodeBus (transWord true 2 data) = .ok (.wr2 data) ∧ decodeBus (transWord true 3 data) = .ok (.wr3 data)) ∧
  ∀ (s : State) (i : Instr) (j : Slot) (data : Byte),
    (i = .wr1 data ∧ j = 1) ∨ (i = .wr2 data ∧ j = 2) ∨ (i = .wr3 data ∧ j = 3) →
    ∃ t, exec i s = .next t ∧ t.hold.get j = data ∧ (∀ k, k ≠ j → t.hold.get k = s.hold.get k) ∧ t.reads = s.reads ∧
      Released t ∧ t.tf = s.tf ∧ t.sel = s.sel ∧ t.pending = s.pending ∧ t.rerun = s.rerun ∧ t.status = s.status ∧
      SameLatches s t ∧ SameFifo s t ∧ SameCapture s t ∧ DispatcherSideSame s t

/-- R116: WR4, a write of offset 4, resets the cursor, whatever its data and wherever the cursor was; FIFO[], OVERRUN and
STATUS stay. -/
def Obligations.CursorResetZeroesCursorOnly : Prop :=
  (∀ data : Byte, decodeBus (transWord true 4 data) = .ok (.wr4 data)) ∧
  ∀ (s : State) (data : Byte), ∃ t, exec (.wr4 data) s = .next t ∧ t.cur = 0 ∧
    (∀ i, t.fifoByte i = s.fifoByte i) ∧ t.reads = s.reads ∧ Released t ∧ SameController s t ∧ SameLatches s t ∧
    SameCapture s t ∧ DispatcherSideSame s t

/-- R120: a write of a reserved offset changes no state; its service step releases the bus. -/
def Obligations.ReservedWritesAreIgnored : Prop :=
  ∀ (s : State) (off data : Byte), ∃ t, exec (.wrx off data) s = .next t ∧ t.reads = s.reads ∧ Released t ∧
    OnlyBusChanged s t

/-- R113, R114: a write of offset 0 with bit 7 set stores HOLD[0], commits HOLD into the first four task-file registers,
selects the drive unless the opcode is Read parameters, and sets pattern 0x30 with the error bit kept. That the drive is the
low two bits of the drive-select byte is a choice: the spec's own (R81, D2), which the model follows (log 28). -/
def Obligations.CommandBurstCommitsHolding : Prop :=
  ∀ (s : State) (op : Opcode), ∃ t, exec (.wr0cmd op) s = .next t ∧
    (t.hold.get 0).getLsbD 7 = true ∧ low7 (t.hold.get 0) = op ∧ (∀ k, k ≠ 0 → t.hold.get k = s.hold.get k) ∧
    t.tf.command = t.hold.get 0 ∧ t.tf.drive = s.hold.get 1 ∧ t.tf.cylLo = s.hold.get 2 ∧
    t.tf.cylHi = s.hold.get 3 ∧ t.tf.sector = s.tf.sector ∧ t.tf.head = s.tf.head ∧ t.tf.count = s.tf.count ∧
    t.tf.spare = s.tf.spare ∧ (op = 0x10 → t.sel = s.sel) ∧
    (op ≠ 0x10 → t.sel.toNat = (s.hold.get 1).toNat % 4) ∧
    pattern t.status = 0x30 ∧ errorBit t.status = errorBit s.status ∧ t.pending = s.pending ∧ t.rerun = s.rerun ∧
    t.reads = s.reads ∧ Released t ∧ SameLatches s t ∧ SameFifo s t ∧ SameCapture s t ∧ DispatcherSideSame s t

/-- R113, R115: a write of offset 0 with bit 7 clear stores HOLD[0], commits HOLD into the last four task-file registers,
and then, by PENDING and the committed command, starts the command (pattern 0x10), accepts a Reset silently (0x20,
RERUN) or reports a protocol violation (0x20, VIOL). -/
def Obligations.ParameterBurstStartsOrRejects : Prop :=
  ∀ (s : State) (sector : BitVec 7), ∃ t, exec (.wr0par sector) s = .next t ∧
    (t.hold.get 0).getLsbD 7 = false ∧ low7 (t.hold.get 0) = sector ∧
    (∀ k, k ≠ 0 → t.hold.get k = s.hold.get k) ∧ t.tf.sector = t.hold.get 0 ∧ t.tf.head = s.hold.get 1 ∧
    t.tf.count = s.hold.get 2 ∧ t.tf.spare = s.hold.get 3 ∧ t.tf.command = s.tf.command ∧
    t.tf.drive = s.tf.drive ∧ t.tf.cylLo = s.tf.cylLo ∧ t.tf.cylHi = s.tf.cylHi ∧ t.sel = s.sel ∧
    errorBit t.status = errorBit s.status ∧ t.pending = true ∧ t.overrun = s.overrun ∧
    (s.pending = false → pattern t.status = 0x10 ∧ t.rerun = s.rerun ∧ t.viol = s.viol) ∧
    (s.pending = true → low7 s.tf.command = 0x00 → pattern t.status = 0x20 ∧ t.rerun = true ∧ t.viol = s.viol) ∧
    (s.pending = true → low7 s.tf.command ≠ 0x00 → pattern t.status = 0x20 ∧ t.rerun = s.rerun ∧ t.viol = true) ∧
    t.reads = s.reads ∧ Released t ∧ SameFifo s t ∧ SameCapture s t ∧ DispatcherSideSame s t

/-- R132, R134: below capacity a data-port read returns FIFO[CUR] and advances the cursor, and changes nothing else. -/
def Obligations.DataReadReturnsByteAtCursor : Prop :=
  ∀ s : State, s.cur < Config.fifoCap → ∃ t, exec .rd8 s = .next t ∧ t.reads = s.reads ++ [s.fifoByte s.cur] ∧
    t.cur = s.cur + 1 ∧ (∀ i, t.fifoByte i = s.fifoByte i) ∧ Released t ∧ SameController s t ∧ SameLatches s t ∧
    SameCapture s t ∧ DispatcherSideSame s t

/-- R133, R135: below capacity a data-port write stores its byte at the cursor and advances it, and changes nothing
else. -/
def Obligations.DataWriteStoresByteAtCursor : Prop :=
  ∀ (s : State) (data : Byte), s.cur < Config.fifoCap → ∃ t, exec (.wr8 data) s = .next t ∧
    t.fifoByte s.cur = data ∧ (∀ i, i ≠ s.cur → t.fifoByte i = s.fifoByte i) ∧ t.cur = s.cur + 1 ∧
    t.reads = s.reads ∧ Released t ∧ SameController s t ∧ SameLatches s t ∧ SameCapture s t ∧ DispatcherSideSame s t

/-- R136: at capacity both data-port accesses leave FIFO[], CUR and STATUS alone, set OVERRUN, and complete. The byte a
read returns is the model's free value (log 3). The clamp is the spec's own decision; R237 wants OVERRUN = 0 as the
premise of whatever rests on it (log 25). -/
def Obligations.DataPortClampsAtCapacity : Prop :=
  ∀ (s : State) (data : Byte), s.cur = Config.fifoCap →
    (∃ t, exec .rd8 s = .next t ∧ t.reads = s.reads ++ [Config.fifoOverrunByte s.reads.length] ∧ t.overrun = true ∧
      t.viol = s.viol ∧ SameFifo s t ∧ Released t ∧ SameController s t ∧ SameCapture s t ∧ DispatcherSideSame s t) ∧
    (∃ t, exec (.wr8 data) s = .next t ∧ t.reads = s.reads ∧ t.overrun = true ∧ t.viol = s.viol ∧ SameFifo s t ∧
      Released t ∧ SameController s t ∧ SameCapture s t ∧ DispatcherSideSame s t)

/-- R101: every bus transaction completes, whatever the state, and ends with WAIT released and the drivers safe; R103,
R106: it touches nothing of the dispatcher's, no descriptor and no file, and issues no Store request. -/
def Obligations.EveryTransactionReleasesTheBus : Prop :=
  ∀ (i : Instr) (s : State), i.isBus = true →
    ∃ t, exec i s = .next t ∧ Released t ∧ SameCapture s t ∧ DispatcherSideSame s t ∧
      errorBit t.status = errorBit s.status

/-! ## Disk commands: what is common -/

/-- R56, R151, R191: a failed validation of Read or Write sets the error bit, keeps the pattern, ends the command, and
touches no file, no descriptor and no FIFO byte. -/
def Obligations.FailedValidationAbortsReadWrite : Prop :=
  ∀ (s : State) (i : Instr), (i = .read ∨ i = .write) → s.xstep = .s3 →
    ((s.drv.get s.xdrv).cyls.toNat ≤ (s.drv.get s.xdrv).curCyl.toNat ∨
      (s.drv.get s.xdrv).heads.toNat ≤ (s.drv.get s.xdrv).curHead.toNat ∨
      (s.drv.get s.xdrv).spt.toNat ≤ (s.drv.get s.xdrv).curSec.toNat ∨
      (s.drv.get s.xdrv).curSize ≠ (s.drv.get s.xdrv).secsize) →
    ∃ t, exec i s = .next t ∧ errorBit t.status = true ∧ pattern t.status = pattern s.status ∧ Finished s t ∧
      t.hold = s.hold ∧ t.tf = s.tf ∧ t.sel = s.sel ∧ t.xstep = s.xstep ∧ t.xcmd = s.xcmd ∧ t.xdrv = s.xdrv ∧
      t.drv = s.drv ∧ t.excl = s.excl ∧ SameFifo s t ∧ SameStore s t ∧ HandlerSideSame s t

/-- R56: a validation of Read or Write that passes clears the error bit and goes on to the transfer; nothing else. -/
def Obligations.PassedValidationClearsError : Prop :=
  ∀ (s : State) (i : Instr), (i = .read ∨ i = .write) → s.xstep = .s3 →
    (s.drv.get s.xdrv).curCyl.toNat < (s.drv.get s.xdrv).cyls.toNat →
    (s.drv.get s.xdrv).curHead.toNat < (s.drv.get s.xdrv).heads.toNat →
    (s.drv.get s.xdrv).curSec.toNat < (s.drv.get s.xdrv).spt.toNat →
    (s.drv.get s.xdrv).curSize = (s.drv.get s.xdrv).secsize →
    ∃ t, exec i s = .next t ∧ errorBit t.status = false ∧ pattern t.status = pattern s.status ∧ t.xstep = .s4 ∧
      t.dstate = s.dstate ∧ t.xcmd = s.xcmd ∧ t.xdrv = s.xdrv ∧ t.hold = s.hold ∧ t.tf = s.tf ∧ t.sel = s.sel ∧
      t.pending = s.pending ∧ t.rerun = s.rerun ∧ t.drv = s.drv ∧ t.excl = s.excl ∧ SameFifo s t ∧ SameStore s t ∧
      HandlerSideSame s t

/-- R169 step 3 (90_conflicts.md C5): Format forces the working sector to 0 first, so only cylinder, head and sector size
can fail its validation on a drive that has sectors; on a drive without sectors it always fails (R56, R151; V-VAL-10). -/
def Obligations.FormatValidationIgnoresSector : Prop :=
  ∀ s : State, s.xstep = .s3 →
    ∃ t, exec .format s = .next t ∧
      (0 < (s.drv.get s.xdrv).spt.toNat ∧ (s.drv.get s.xdrv).curCyl.toNat < (s.drv.get s.xdrv).cyls.toNat ∧
        (s.drv.get s.xdrv).curHead.toNat < (s.drv.get s.xdrv).heads.toNat ∧
        (s.drv.get s.xdrv).curSize = (s.drv.get s.xdrv).secsize →
        errorBit t.status = false ∧ t.xstep = .s4 ∧ t.dstate = s.dstate ∧ t.pending = s.pending ∧ t.rerun = s.rerun) ∧
      ((s.drv.get s.xdrv).spt.toNat = 0 ∨ (s.drv.get s.xdrv).cyls.toNat ≤ (s.drv.get s.xdrv).curCyl.toNat ∨
        (s.drv.get s.xdrv).heads.toNat ≤ (s.drv.get s.xdrv).curHead.toNat ∨
        (s.drv.get s.xdrv).curSize ≠ (s.drv.get s.xdrv).secsize →
        errorBit t.status = true ∧ t.xstep = s.xstep ∧ Finished s t) ∧
      pattern t.status = pattern s.status ∧ t.drv.get s.xdrv = { s.drv.get s.xdrv with curSec := 0 } ∧
      (∀ d, d ≠ s.xdrv → t.drv.get d = s.drv.get d) ∧ t.hold = s.hold ∧ t.tf = s.tf ∧ t.sel = s.sel ∧
      t.xcmd = s.xcmd ∧ t.xdrv = s.xdrv ∧ t.excl = s.excl ∧ SameFifo s t ∧ SameStore s t ∧ HandlerSideSame s t

/-- R150: the completion step of Read, Write, Format and Read parameters writes the command's pattern, keeps the error
bit, returns to Idle, and clears PENDING unless a Reset is to be re-run (R157). -/
def Obligations.CompletionWritesPatternAndFinishes : Prop :=
  ∀ (s : State) (i : Instr) (p : Byte),
    (i = .read ∧ s.xstep = .s5 ∧ p = 0x60) ∨ (i = .write ∧ s.xstep = .s6 ∧ p = 0x40) ∨
      (i = .format ∧ s.xstep = .s6 ∧ p = 0x20) ∨ (i = .params ∧ s.xstep = .s4 ∧ p = 0x60) →
    ∃ t, exec i s = .next t ∧ pattern t.status = p ∧ errorBit t.status = errorBit s.status ∧ Finished s t ∧
      t.hold = s.hold ∧ t.tf = s.tf ∧ t.sel = s.sel ∧ t.xstep = s.xstep ∧ t.xcmd = s.xcmd ∧ t.xdrv = s.xdrv ∧
      t.drv = s.drv ∧ t.excl = false ∧ SameFifo s t ∧ SameStore s t ∧ HandlerSideSame s t

/-! ## Disk commands: each -/

/-- R166, R173, R228: Reset reinitialises Controller State and the descriptors, opens drives 0 and 3 once each, reports a
failed open in the error bit, and leaves FIFO, cursor, latches, bus and files alone. Drives 1 and 2 are left closed (R32);
that one close request is issued for each that was open, and none otherwise, is the model's reading (log 8). The two opens take the STORE's next two
answers, `a` and `b` (the model's oracle, log 6). -/
def Obligations.ResetCommandReinitialises : Prop :=
  ∀ (s : State) (a b : StoreAnswer) (rest : List StoreAnswer), s.storeStuck = false →
    s.storeAnswers = a :: b :: rest →
    ∃ t, exec .reset s = .next t ∧ (∀ k, t.hold.get k = 0) ∧ t.tf = TaskFile.zero ∧ t.sel = 0 ∧ t.pending = false ∧
      t.rerun = false ∧ t.dstate = .idle ∧ t.excl = false ∧
      t.status = (if answerOpens a (s.disk.get 0).media && answerOpens b (s.disk.get 3).media then 0x00 else 0x01) ∧
      t.drv.get 0 = Drive.fresh (Config.geom 0) (answerOpens a (s.disk.get 0).media) ∧
      t.drv.get 1 = Drive.fresh (Config.geom 1) false ∧ t.drv.get 2 = Drive.fresh (Config.geom 2) false ∧
      t.drv.get 3 = Drive.fresh (Config.geom 3) (answerOpens b (s.disk.get 3).media) ∧
      (t.disk.get 0).isOpen = answerOpens a (s.disk.get 0).media ∧
      (t.disk.get 3).isOpen = answerOpens b (s.disk.get 3).media ∧ (t.disk.get 0).pos = 0 ∧ (t.disk.get 3).pos = 0 ∧
      t.disk.get 1 = { s.disk.get 1 with isOpen := false } ∧ t.disk.get 2 = { s.disk.get 2 with isOpen := false } ∧
      (∀ d, SameFile d s t) ∧
      t.storeReqs = s.storeReqs + 4 + (if (s.disk.get 1).isOpen then 1 else 0) +
        (if (s.disk.get 2).isOpen then 1 else 0) ∧
      t.storeAnswers = rest ∧ t.xstep = s.xstep ∧ t.xcmd = s.xcmd ∧
      t.xdrv = s.xdrv ∧ SameFifo s t ∧ HandlerSideSame s t

/-- R52, R54: what the STORE answers Read's transfer: nothing from a closed file; from an open one, never more than was
asked, and, where the answer is the reference store's, the file's own bytes up to its end (log 6). -/
def Obligations.ReadAnswerComesFromTheFile : Prop :=
  (∀ s : State, (readTransferData s).length ≤ (s.drv.get s.xdrv).transferLength) ∧
  (∀ s : State, (s.disk.get s.xdrv).isOpen = false → readTransferData s = []) ∧
  (∀ (s : State) (rest : List StoreAnswer), (s.disk.get s.xdrv).isOpen = true → s.storeAnswers = .reference :: rest →
    (readTransferData s).length =
      min (s.drv.get s.xdrv).transferLength ((s.disk.get s.xdrv).len - (s.drv.get s.xdrv).byteOffset) ∧
    ∀ k, (h : k < (readTransferData s).length) →
      (readTransferData s)[k] = (s.disk.get s.xdrv).byteAt s.xdrv ((s.drv.get s.xdrv).byteOffset + k))

/-- R137, R167 step 4, R192: the bytes the STORE answered replace FIFO[0 .. actual-1], the rest of the FIFO and the
cursor stay, the error bit is set exactly on a short read, and no file changes. -/
def Obligations.ReadTransferFillsFifo : Prop :=
  ∀ s : State, s.xstep = .s4 → s.storeStuck = false → (s.drv.get s.xdrv).transferLength ≤ Config.fifoCap →
    ∃ t, exec .read s = .next t ∧
      (∀ k, (h : k < (readTransferData s).length) → t.fifoByte k = (readTransferData s)[k]) ∧
      (∀ k, (readTransferData s).length ≤ k → t.fifoByte k = s.fifoByte k) ∧ t.cur = s.cur ∧
      pattern t.status = pattern s.status ∧
      errorBit t.status =
        (errorBit s.status || decide ((readTransferData s).length ≠ (s.drv.get s.xdrv).transferLength)) ∧
      t.xstep = .s5 ∧ t.dstate = s.dstate ∧ t.xcmd = s.xcmd ∧ t.xdrv = s.xdrv ∧ t.hold = s.hold ∧ t.tf = s.tf ∧
      t.sel = s.sel ∧ t.pending = s.pending ∧ t.rerun = s.rerun ∧ t.drv = s.drv ∧ t.excl = false ∧
      (∀ d, SameFile d s t) ∧ (∀ d, (t.disk.get d).isOpen = (s.disk.get d).isOpen) ∧
      t.storeReqs = s.storeReqs + 2 ∧ HandlerSideSame s t

/-- R138, R168 step 4, R192: the accepted part of FIFO[0 .. len-1] lands at the translated offset of the selected drive's
file and nowhere else; FIFO and cursor stay; the error bit is set exactly on a short write (which bytes an answer
accepts: log 6, log 7). Under the reference answer what is accepted is what lies inside the file, nothing on a read-only
handle (R55), and the file keeps its length; so it does wherever nothing is accepted. -/
def Obligations.WriteTransferStoresFifo : Prop :=
  (∀ (s : State) (rest : List StoreAnswer), (s.disk.get s.xdrv).isOpen = true → s.storeAnswers = .reference :: rest →
    writeTransferCount s = if (s.disk.get s.xdrv).roHandle then 0
      else min (s.drv.get s.xdrv).transferLength ((s.disk.get s.xdrv).len - (s.drv.get s.xdrv).byteOffset)) ∧
  ∀ s : State, s.xstep = .s4 → s.storeStuck = false → (s.drv.get s.xdrv).transferLength ≤ Config.fifoCap →
    ∃ t, exec .write s = .next t ∧ writeTransferCount s ≤ (s.drv.get s.xdrv).transferLength ∧
      ((s.disk.get s.xdrv).isOpen = false → writeTransferCount s = 0) ∧
      (writeTransferCount s = 0 ∨
          (s.drv.get s.xdrv).byteOffset + writeTransferCount s ≤ (s.disk.get s.xdrv).len →
        (t.disk.get s.xdrv).len = (s.disk.get s.xdrv).len) ∧
      (∀ k, k < writeTransferCount s →
        (t.disk.get s.xdrv).byteAt s.xdrv ((s.drv.get s.xdrv).byteOffset + k) = s.fifoByte k) ∧
      (∀ j, j < (s.drv.get s.xdrv).byteOffset ∨ (s.drv.get s.xdrv).byteOffset + writeTransferCount s ≤ j →
        (t.disk.get s.xdrv).byteAt s.xdrv j = (s.disk.get s.xdrv).byteAt s.xdrv j) ∧
      (∀ d, d ≠ s.xdrv → t.disk.get d = s.disk.get d) ∧
      (∀ d, (t.disk.get d).isOpen = (s.disk.get d).isOpen) ∧
      pattern t.status = pattern s.status ∧
      errorBit t.status =
        (errorBit s.status || decide (writeTransferCount s ≠ (s.drv.get s.xdrv).transferLength)) ∧
      t.xstep = .s5 ∧ t.dstate = s.dstate ∧ t.xcmd = s.xcmd ∧ t.xdrv = s.xdrv ∧ t.hold = s.hold ∧ t.tf = s.tf ∧
      t.sel = s.sel ∧ t.pending = s.pending ∧ t.rerun = s.rerun ∧ t.drv = s.drv ∧ t.excl = false ∧
      t.storeReqs = s.storeReqs + 2 ∧ SameFifo s t ∧ HandlerSideSame s t

/-- R152: Write's and Format's step 5 closes the file and tries to open it again, at most ten times in all; the first
success ends it with the drive ready. Here the first `fails.length` answers refuse and the next one accepts
(the scripted answers are the model's oracle, log 6; position 0 after an open is log 19). On drives 1 and 2, which R29
calls never opened, it is the model's reading that the sequence runs (log 18). -/
def Obligations.ReopenStopsAtFirstSuccess : Prop :=
  ∀ (s : State) (i : Instr) (fails rest : List StoreAnswer) (a : StoreAnswer), (i = .write ∨ i = .format) →
    s.xstep = .s5 → s.storeStuck = false → s.storeAnswers = fails ++ a :: rest → fails.length < 10 →
    (∀ f ∈ fails, answerOpens f (s.disk.get s.xdrv).media = false) → answerOpens a (s.disk.get s.xdrv).media = true →
    ∃ t, exec i s = .next t ∧ t.storeReqs = s.storeReqs + 1 + (fails.length + 1) ∧ t.storeAnswers = rest ∧
      t.drv.get s.xdrv = { s.drv.get s.xdrv with ready := true } ∧ (t.disk.get s.xdrv).isOpen = true ∧ (t.disk.get s.xdrv).pos = 0 ∧
      (t.disk.get s.xdrv).roHandle = (s.drv.get s.xdrv).ro ∧ SameController s t ∧ t.xstep = .s6 ∧
      t.dstate = s.dstate ∧ t.xcmd = s.xcmd ∧ t.xdrv = s.xdrv ∧ t.excl = s.excl ∧
      (∀ d, d ≠ s.xdrv → t.drv.get d = s.drv.get d ∧ t.disk.get d = s.disk.get d) ∧ (∀ d, SameFile d s t) ∧
      SameFifo s t ∧ HandlerSideSame s t

/-- R152, R197: after ten refused opens the step gives up: exactly ten were tried, the drive is not ready, the file
closed, the error bit set, and the command still goes on to its completion step. The report on giving up is the spec's
own decision; the scripted answers are the model's oracle (log 6). On drives 1 and 2, which R29 calls never opened, it is
the model's reading that the sequence runs (log 18). -/
def Obligations.ReopenGivesUpAfterTen : Prop :=
  ∀ (s : State) (i : Instr) (fails rest : List StoreAnswer), (i = .write ∨ i = .format) →
    s.xstep = .s5 → s.storeStuck = false → s.storeAnswers = fails ++ rest → fails.length = 10 →
    (∀ f ∈ fails, answerOpens f (s.disk.get s.xdrv).media = false) →
    ∃ t, exec i s = .next t ∧ t.storeReqs = s.storeReqs + 11 ∧ t.storeAnswers = rest ∧
      t.drv.get s.xdrv = { s.drv.get s.xdrv with ready := false } ∧ (t.disk.get s.xdrv).isOpen = false ∧
      errorBit t.status = true ∧
      pattern t.status = pattern s.status ∧ t.xstep = .s6 ∧ t.dstate = s.dstate ∧ t.xcmd = s.xcmd ∧
      t.xdrv = s.xdrv ∧ t.pending = s.pending ∧ t.rerun = s.rerun ∧ t.hold = s.hold ∧ t.tf = s.tf ∧ t.sel = s.sel ∧
      t.excl = s.excl ∧ (∀ d, d ≠ s.xdrv → t.drv.get d = s.drv.get d ∧ t.disk.get d = s.disk.get d) ∧
      (∀ d, SameFile d s t) ∧ SameFifo s t ∧ HandlerSideSame s t

/-- R169 step 4 (the source's property L1-8): with every chunk accepted, Format fills exactly the track, sectors per track
times sector size bytes from the track's offset, with the fill byte, and no other byte of any file changes. A chunk is
accepted by the reference store where the handle is writable and the track lies inside the file (R55), or by an answer that
accepts that many bytes. The scripted answers are the model's oracle (log 6); that bytes so accepted land at the position,
past the file's end too, is the model's (log 7); that the FIFO stays is the spec's own decision (log 21). -/
def Obligations.FormatFillsExactlyOneTrack : Prop :=
  ∀ (s : State) (answers rest : List StoreAnswer), s.xstep = .s4 → s.storeStuck = false →
    (s.disk.get s.xdrv).isOpen = true →
    answers.length = (fillChunks (s.drv.get s.xdrv).trackLength Config.fillChunk).length →
    (∀ a ∈ answers, (a = .reference ∧ (s.disk.get s.xdrv).roHandle = false ∧
        (s.drv.get s.xdrv).byteOffset + (s.drv.get s.xdrv).trackLength ≤ (s.disk.get s.xdrv).len) ∨
      ∃ ok data accepted, a = .free ok data accepted ∧ Config.fillChunk ≤ accepted) →
    s.storeAnswers = answers ++ rest →
    ∃ t, exec .format s = .next t ∧
      (∀ k, (s.drv.get s.xdrv).byteOffset ≤ k ∧
          k < (s.drv.get s.xdrv).byteOffset + (s.drv.get s.xdrv).spt.toNat * (s.drv.get s.xdrv).curSize.toNat →
        (t.disk.get s.xdrv).byteAt s.xdrv k = Config.fillByte) ∧
      (∀ k, k < (s.drv.get s.xdrv).byteOffset ∨
          (s.drv.get s.xdrv).byteOffset + (s.drv.get s.xdrv).spt.toNat * (s.drv.get s.xdrv).curSize.toNat ≤ k →
        (t.disk.get s.xdrv).byteAt s.xdrv k = (s.disk.get s.xdrv).byteAt s.xdrv k) ∧
      (∀ d, d ≠ s.xdrv → t.disk.get d = s.disk.get d) ∧ t.storeReqs = s.storeReqs + 1 + answers.length ∧
      t.storeAnswers = rest ∧ SameController s t ∧ t.xstep = .s5 ∧ t.dstate = s.dstate ∧ t.xcmd = s.xcmd ∧
      t.xdrv = s.xdrv ∧ t.drv = s.drv ∧ t.excl = s.excl ∧ SameFifo s t ∧ HandlerSideSame s t

/-- R169 step 4: the first short chunk ends the fill: what was accepted is filled, the error bit is set, and the rest of
the file keeps its contents. On an open handle `answers` accept their chunks whole and `b` accepts less than the `m` bytes
of the next chunk, be it the reference store at the file's end or on a read-only handle (R55); on a closed handle the
first chunk already transfers nothing (R52). The scripted answers, and that a request on a closed handle uses one up, are
the model's oracle (log 6), where the accepted bytes land is log 7, that the FIFO stays log 21. -/
def Obligations.FormatStopsAtShortChunk : Prop :=
  ∀ (s : State) (answers rest : List StoreAnswer) (b : StoreAnswer) (m total : Nat), s.xstep = .s4 →
    s.storeStuck = false →
    (fillChunks (s.drv.get s.xdrv).trackLength Config.fillChunk)[answers.length]? = some m →
    ((s.disk.get s.xdrv).isOpen = true ∧ s.storeAnswers = answers ++ b :: rest ∧
        (∀ k, (h : k < answers.length) →
          answerAccepts answers[k] (s.disk.get s.xdrv).roHandle
            ((s.disk.get s.xdrv).len - ((s.drv.get s.xdrv).byteOffset + k * Config.fillChunk)) Config.fillChunk =
              Config.fillChunk) ∧
        answerAccepts b (s.disk.get s.xdrv).roHandle
          ((s.disk.get s.xdrv).len - ((s.drv.get s.xdrv).byteOffset + answers.length * Config.fillChunk)) m < m ∧
        total = answers.length * Config.fillChunk + answerAccepts b (s.disk.get s.xdrv).roHandle
          ((s.disk.get s.xdrv).len - ((s.drv.get s.xdrv).byteOffset + answers.length * Config.fillChunk)) m) ∨
      ((s.disk.get s.xdrv).isOpen = false ∧ answers = [] ∧ rest = s.storeAnswers.tail ∧ total = 0) →
    ∃ t, exec .format s = .next t ∧ errorBit t.status = true ∧ pattern t.status = pattern s.status ∧
      (∀ k, (s.drv.get s.xdrv).byteOffset ≤ k ∧ k < (s.drv.get s.xdrv).byteOffset + total →
        (t.disk.get s.xdrv).byteAt s.xdrv k = Config.fillByte) ∧
      (∀ k, k < (s.drv.get s.xdrv).byteOffset ∨ (s.drv.get s.xdrv).byteOffset + total ≤ k →
        (t.disk.get s.xdrv).byteAt s.xdrv k = (s.disk.get s.xdrv).byteAt s.xdrv k) ∧
      (∀ d, d ≠ s.xdrv → t.disk.get d = s.disk.get d) ∧
      (t.disk.get s.xdrv).isOpen = (s.disk.get s.xdrv).isOpen ∧ t.storeReqs = s.storeReqs + 1 + (answers.length + 1) ∧
      t.storeAnswers = rest ∧ t.xstep = .s5 ∧ t.dstate = s.dstate ∧ t.xcmd = s.xcmd ∧ t.xdrv = s.xdrv ∧
      t.hold = s.hold ∧ t.tf = s.tf ∧ t.sel = s.sel ∧ t.pending = s.pending ∧ t.rerun = s.rerun ∧ t.drv = s.drv ∧
      t.excl = s.excl ∧ SameFifo s t ∧ HandlerSideSame s t

/-- R170: Access FIFO, command byte 0x8B, sets the cursor to 0 from wherever it was, writes pattern 0x20, keeps the error
bit, and touches neither FIFO[] nor the STORE. -/
def Obligations.AccessFifoResetsCursor : Prop :=
  low7 0x8B = 0x0B ∧ decodeCommand 0x0B = .fifo ∧
  ∀ s : State, ∃ t, exec .fifo s = .next t ∧ t.cur = 0 ∧ (∀ i, t.fifoByte i = s.fifoByte i) ∧
    pattern t.status = 0x20 ∧ errorBit t.status = errorBit s.status ∧ Finished s t ∧ t.hold = s.hold ∧ t.tf = s.tf ∧
    t.sel = s.sel ∧ t.xstep = s.xstep ∧ t.xcmd = s.xcmd ∧ t.xdrv = s.xdrv ∧ t.drv = s.drv ∧ t.excl = false ∧
    SameStore s t ∧ HandlerSideSame s t

/-- R171 step 3: Read parameters puts the 108 bytes of the table into FIFO[0 .. 107], whatever the drive, and leaves the
rest of the FIFO, the cursor and STATUS alone. -/
def Obligations.ReadParametersEmitsTable : Prop :=
  ∀ s : State, s.xstep = .s3 → ∃ t, exec .params s = .next t ∧ (∀ k, k < 108 → t.fifoByte k = Config.paramByte k) ∧
    (∀ k, 108 ≤ k → t.fifoByte k = s.fifoByte k) ∧ t.cur = s.cur ∧ t.xstep = .s4 ∧ t.dstate = s.dstate ∧
    t.xcmd = s.xcmd ∧ t.xdrv = s.xdrv ∧ t.drv = s.drv ∧ t.excl = false ∧ SameController s t ∧ SameStore s t ∧
    HandlerSideSame s t

/-- R172, R195: an unknown command completes with pattern 0x60 and does nothing else; the error bit is neither set nor
cleared. -/
def Obligations.UnknownCommandCompletesSilently : Prop :=
  ∀ (s : State) (op : Opcode), ∃ t, exec (.unknown op) s = .next t ∧ pattern t.status = 0x60 ∧
    errorBit t.status = errorBit s.status ∧ Finished s t ∧ t.hold = s.hold ∧ t.tf = s.tf ∧ t.sel = s.sel ∧
    t.xstep = s.xstep ∧ t.xcmd = s.xcmd ∧ t.xdrv = s.xdrv ∧ t.drv = s.drv ∧ t.excl = false ∧ SameFifo s t ∧
    SameStore s t ∧ HandlerSideSame s t

/-! ## Arithmetic and storage -/

/-- R79, R80: the cylinder is the high byte times 256 plus the low byte; a sector count of 0 means 1. -/
def Obligations.CylinderAndCountAssembly : Prop :=
  (∀ tf : TaskFile, (cylinderOf tf).toNat = tf.cylHi.toNat * 256 + tf.cylLo.toNat) ∧
  sectorCount 0 = 1 ∧ (∀ c : Byte, c ≠ 0 → sectorCount c = c)

/-- R57: the sector a validated address translates to lies wholly inside the disk, below 2^32, on any geometry that
meets R7's constraint and has the commands' sector size. -/
def Obligations.ValidatedSectorLiesInsideDisk : Prop :=
  ∀ v : Drive, v.valid = true → v.curSize = 256 →
    v.cyls.toNat * v.heads.toNat * v.spt.toNat * v.secsize.toNat ≤ 2 ^ 32 →
    v.byteOffset + 256 ≤ v.cyls.toNat * v.heads.toNat * v.spt.toNat * 256 ∧ v.byteOffset < 2 ^ 32

/-- R57: two validated addresses of one drive that translate to the same offset are the same address. -/
def Obligations.TranslationIsInjective : Prop :=
  ∀ v w : Drive, v.valid = true → w.valid = true → v.geometry = w.geometry → v.byteOffset = w.byteOffset →
    v.curCyl = w.curCyl ∧ v.curHead = w.curHead ∧ v.curSec = w.curSec

/-- R58 (c), R139: at the commands' sector size no transfer exceeds 65,280 bytes, nor FIFO_CAP. -/
def Obligations.TransferFitsFifo : Prop :=
  ∀ v : Drive, v.curSize = 256 → v.transferLength ≤ 65280 ∧ v.transferLength ≤ Config.fifoCap

/-- R137, R138: what BulkIn stored BulkOut returns, and BulkIn moves neither the cursor nor any later byte. -/
def Obligations.BulkOutReturnsBulkIn : Prop :=
  ∀ (s : State) (data : List Byte), bulkOut data.length (bulkIn data s) = data ∧ (bulkIn data s).cur = s.cur ∧
    ∀ k, data.length ≤ k → (bulkIn data s).fifoByte k = s.fifoByte k

/-! ## Whole commands -/

/-- The round trip of 95_test_vectors.md L1-3, under the reference store's answers (R54, R55): a Write of a validated
address runs its four steps and leaves the FIFO's bytes in the file; a later Read at the same address, from any state
with that file, drive and answers, puts those bytes back into the FIFO. The scripted answers are the model's oracle
(log 6). -/
def Obligations.WriteThenReadRoundTrips : Prop :=
  ∀ (s u : State) (rest rest' : List StoreAnswer),
    s.wait = false → s.hostEvents = [] → s.dstate = .executing → s.xcmd = 0x02 → s.xstep = .s3 →
    s.storeStuck = false → (s.drv.get s.xdrv).valid = true → (s.drv.get s.xdrv).curSize = 256 →
    (s.disk.get s.xdrv).isOpen = true → (s.disk.get s.xdrv).roHandle = false →
    (s.drv.get s.xdrv).byteOffset + (s.drv.get s.xdrv).transferLength ≤ (s.disk.get s.xdrv).len →
    (s.disk.get s.xdrv).media = true → s.storeAnswers = .reference :: .reference :: rest →
    u.wait = false → u.hostEvents = [] → u.dstate = .executing → u.xcmd = 0x01 → u.xstep = .s3 →
    u.storeStuck = false → u.xdrv = s.xdrv → u.storeAnswers = .reference :: rest' →
    (u.drv.get u.xdrv) = { s.drv.get s.xdrv with ready := (u.drv.get u.xdrv).ready } →
    ∃ t, Host.Core.run core 4 s = .next t ∧ t.dstate = .idle ∧ pattern t.status = 0x40 ∧
      errorBit t.status = false ∧
      (u.disk.get u.xdrv = t.disk.get s.xdrv →
        ∃ v, Host.Core.run core 3 u = .next v ∧ v.dstate = .idle ∧ pattern v.status = 0x60 ∧
          errorBit v.status = false ∧
          ∀ k, k < (s.drv.get s.xdrv).transferLength → v.fifoByte k = s.fifoByte k)

/-- R145, R150, R157: every command, whatever its opcode and whatever the STORE answers, is run to its end: from any legal
state, with the host quiet and the STORE answering, a command pending at Idle is entered and within six steps of the
dispatcher is back at Idle, and a command already entered within five. PENDING is then clear, unless a Reset is owed
after a command that was not itself a Reset. -/
def Obligations.EveryCommandReturnsToIdle : Prop :=
  ∀ s : State, Legal s → s.wait = false → s.hostEvents = [] → s.storeStuck = false →
    (s.dstate = .idle → s.pending = true →
      ∃ (n : Nat) (t : State), 1 < n ∧ n ≤ 6 ∧ Host.Core.run core n s = .next t ∧ t.dstate = .idle ∧
        t.xcmd = low7 s.tf.command ∧ t.xdrv = s.sel ∧ t.rerun = false ∧
        t.pending = (s.rerun && decide (low7 s.tf.command ≠ 0x00))) ∧
    (s.dstate ≠ .idle →
      ∃ (n : Nat) (t : State), 0 < n ∧ n ≤ 5 ∧ Host.Core.run core n s = .next t ∧ t.dstate = .idle ∧
        t.xcmd = s.xcmd ∧ t.xdrv = s.xdrv ∧ t.rerun = false ∧ t.pending = (s.rerun && decide (s.xcmd ≠ 0x00)))

/-- R154 with R62: a Store request that never answers inside a critical section leaves EXCL set, and the first cycle
captured then stalls the HOST for ever: no later step changes anything. That the stuck step leaves all else as it was is
the model's choice (log 9), and so is that a quiet boundary is used up (log 10). -/
def Obligations.StuckCriticalSectionStallsHost : Prop :=
  ∀ s : State, Legal s → s.storeStuck = true → s.dstate = .executing →
    (s.xcmd = 0x00 ∧ s.xstep = .s3) ∨ (s.xcmd = 0x01 ∧ s.xstep = .s4) ∨ (s.xcmd = 0x02 ∧ s.xstep = .s4) →
    (∀ es, DispatcherHasTurn s es → step s = .next { s with excl := true, hostEvents := es }) ∧
    (s.wait = true → s.excl = true → ∀ n, Host.Core.run core n s = .next s)

/-! ## Invariants and whole-machine rules -/

/-- Every step of every agent keeps the legal states legal (R139, R17, R15, R26, R27, R12, R29, R19). -/
def Obligations.StepKeepsLegalStates : Prop :=
  ∀ s t : State, Legal s → step s = .next t → Legal t

/-- The state after power-on reset is a legal state (R226, R32). -/
def Obligations.ResetStateIsLegal : Prop := Legal State.reset

/-- R86: nothing the host can send stops the machine: from a legal state every step answers a next state. -/
def Obligations.LegalStatesNeverStop : Prop :=
  ∀ s : State, Legal s → ∃ t, step s = .next t

/-- R17: STATUS never leaves its twelve values, in whatever state the rest of the machine is. -/
def Obligations.StatusStaysOneOfTwelve : Prop :=
  ∀ s t : State, statusLegal s.status = true → step s = .next t → statusLegal t.status = true

/-- R18, R198: no step clears VIOL or OVERRUN; only power-on does. -/
def Obligations.ViolationLatchesAreSticky : Prop :=
  ∀ s t : State, step s = .next t → (s.viol = true → t.viol = true) ∧ (s.overrun = true → t.overrun = true)

/-- R175: only Reset, Read, Write and Format ever change the error bit. -/
def Obligations.ErrorBitChangedByFourCommandsOnly : Prop :=
  ∀ (i : Instr) (s t : State), i ≠ .reset → i ≠ .read → i ≠ .write → i ≠ .format → exec i s = .next t →
    errorBit t.status = errorBit s.status

/-- R20: only the two data-port transactions, WR4 and Access FIFO move the cursor, and the data port moves it by at most
one. -/
def Obligations.CursorMovedByFourInstructionsOnly : Prop :=
  (∀ (i : Instr) (s t : State), exec i s = .next t → i ≠ .rd8 → (∀ b, i ≠ .wr8 b) → (∀ b, i ≠ .wr4 b) → i ≠ .fifo →
    t.cur = s.cur) ∧
  (∀ (i : Instr) (s t : State), (i = .rd8 ∨ ∃ b, i = .wr8 b) → exec i s = .next t →
    s.cur ≤ t.cur ∧ t.cur ≤ s.cur + 1)

/-- R31, R106: no step of a disk command touches the latches VIOL and OVERRUN, the capture latches, WAIT, DBDIR or what
the HOST read; and none but Reset writes HOLD, the task file or SEL. -/
def Obligations.CommandsLeaveHandlerSideAlone : Prop :=
  ∀ (i : Instr) (s t : State), i.isBus = false → exec i s = .next t →
    HandlerSideSame s t ∧ (i ≠ .reset → t.hold = s.hold ∧ t.tf = s.tf ∧ t.sel = s.sel)

/-- R59, R147: a disk command other than Reset touches the descriptor and the file of its own drive only. -/
def Obligations.CommandsStayOnTheirDrive : Prop :=
  ∀ (i : Instr) (s t : State) (d : Slot), i ≠ .reset → exec i s = .next t → d ≠ s.xdrv →
    t.drv.get d = s.drv.get d ∧ t.disk.get d = s.disk.get d

/-- R226: State.reset is what the power-on procedure leaves, from any state whose platform side and whose unspecified
registers are as State.reset has them. Those values are the model's (log 4, 5, 6, 16). -/
def Obligations.ResetIsThePowerOnProcedure : Prop :=
  ∀ s : State, s.fifo = [] → s.xstep = State.reset.xstep → s.xcmd = State.reset.xcmd → s.xdrv = State.reset.xdrv →
    s.capOff = State.reset.capOff → s.capData = State.reset.capData → s.capDir = State.reset.capDir →
    (∀ d, s.disk.get d = DiskFile.powerOn d false) → s.hostEvents = [] → s.reads = [] → s.storeAnswers = [] →
    s.storeReqs = 0 → s.storeStuck = false → powerOnReset s = State.reset

/-- R32, column POR: the values the spec gives after power-on. The position 0 of drives 1 and 2, of which R32 says only
that they are closed, is the model's choice (log 29). -/
def Obligations.PowerOnResetValues : Prop :=
  (∀ k, State.reset.hold.get k = 0) ∧ State.reset.tf = TaskFile.zero ∧ State.reset.sel = 0 ∧
  State.reset.pending = false ∧ State.reset.rerun = false ∧ State.reset.viol = false ∧ State.reset.overrun = false ∧
  State.reset.excl = false ∧ State.reset.cur = 0 ∧ State.reset.dstate = .idle ∧ State.reset.wait = false ∧
  State.reset.dbdir = .input ∧
  (State.reset.status = 0x00 ∨ State.reset.status = 0x01) ∧
  (State.reset.status = 0x00 ↔ (State.reset.drv.get 0).ready = true ∧ (State.reset.drv.get 3).ready = true) ∧
  (∀ d, State.reset.drv.get d = Drive.fresh (Config.geom d) (State.reset.drv.get d).ready) ∧
  (State.reset.drv.get 1).ready = false ∧ (State.reset.drv.get 2).ready = false ∧
  (∀ d, (State.reset.disk.get d).isOpen = (State.reset.drv.get d).ready ∧ (State.reset.disk.get d).pos = 0)

/-- R154, its other half: a Store request that never answers outside a critical section (Format's fill, the reopen of Write
and Format) keeps the dispatcher in its step, with PENDING set and EXCL as it was, while captured bus transactions are
still serviced; a parameter burst other than a Reset's is then a protocol violation. That the stuck step leaves all else as
it was is the model's choice (log 9), and so is that a quiet boundary is used up (log 10). -/
def Obligations.StuckOutsideCriticalSectionServesHost : Prop :=
  ∀ s : State, Legal s → s.storeStuck = true → s.dstate = .executing →
    (s.xcmd = 0x08 ∧ s.xstep = .s4) ∨ (s.xcmd = 0x02 ∧ s.xstep = .s5) ∨ (s.xcmd = 0x08 ∧ s.xstep = .s5) →
    s.pending = true ∧
    (∀ es, DispatcherHasTurn s es → step s = .next { s with hostEvents := es }) ∧
    (s.wait = true → s.excl = false →
      ∃ (i : Instr) (t : State), decodeBus s.fetchWord = .ok i ∧ step s = exec i s ∧ step s = .next t ∧ Released t ∧
        DispatcherSideSame s t ∧ t.pending = true ∧
        (∀ sector, i = .wr0par sector → low7 s.tf.command ≠ 0x00 → t.viol = true))
end

