-- ==== Sys2Proof/Laws/Memory.lean ====
section
/-! SUPPORT. Laws of the four-slot records and of byte arrays: read after write, and that every write keeps the canonical
form. -/

namespace Sys2Proof.Machine

@[simp] theorem Quad.get_set_same {α : Type} (q : Quad α) (d : Slot) (x : α) : (q.set d x).get d = x := by
  rcases (by decide : ∀ d : Slot, d = 0 ∨ d = 1 ∨ d = 2 ∨ d = 3) d with h | h | h | h <;> subst h <;>
    simp [Quad.get, Quad.set]

theorem Quad.get_set_other {α : Type} (q : Quad α) (d e : Slot) (x : α) (h : e ≠ d) :
    (q.set d x).get e = q.get e := by
  have hd := Ne.symm h
  rcases (by decide : ∀ d : Slot, d = 0 ∨ d = 1 ∨ d = 2 ∨ d = 3) e with h' | h' | h' | h' <;> subst h' <;>
    simp_all [Quad.get, Quad.set]

theorem Quad.get_set {α : Type} (q : Quad α) (d e : Slot) (x : α) :
    (q.set d x).get e = if e = d then x else q.get e := by
  by_cases h : e = d
  · simp [h]
  · simp [h, Quad.get_set_other]

theorem Quad.ext_get {α : Type} {p q : Quad α} (h : ∀ d, p.get d = q.get d) : p = q := by
  have h0 := h 0
  have h1 := h 1
  have h2 := h 2
  have h3 := h 3
  cases p
  cases q
  simp_all [Quad.get]

@[simp] theorem Quad.set_get {α : Type} (q : Quad α) (d : Slot) : q.set d (q.get d) = q :=
  Quad.ext_get fun e => by by_cases h : e = d <;> simp [Quad.get_set, h]

@[simp] theorem Quad.set_set {α : Type} (q : Quad α) (d : Slot) (x y : α) : (q.set d x).set d y = q.set d y :=
  Quad.ext_get fun e => by by_cases h : e = d <;> simp [Quad.get_set, h]

namespace Memory

@[simp] theorem read?_nil (a : Nat) : Memory.read? [] a = none := rfl

@[simp] theorem read?_write_same (m : Memory) (a : Nat) (b : Byte) : (Memory.write m a b).read? a = some b := by
  induction m with
  | nil => simp [Memory.write, Memory.read?]
  | cons c m ih =>
    obtain ⟨k, v⟩ := c
    rcases lt_trichotomy a k with h | h | h
    · simp [Memory.write, Memory.read?, h]
    · simp [Memory.write, Memory.read?, h]
    · simp [Memory.write, Memory.read?, show ¬ a < k by omega, show ¬ a = k by omega, show ¬ k = a by omega, ih]

theorem read?_write_other (m : Memory) (a c : Nat) (b : Byte) (h : c ≠ a) :
    (Memory.write m a b).read? c = m.read? c := by
  induction m with
  | nil => simp [Memory.write, Memory.read?, h.symm]
  | cons e m ih =>
    obtain ⟨k, v⟩ := e
    rcases lt_trichotomy a k with h' | h' | h'
    · simp [Memory.write, Memory.read?, h', h.symm]
    · subst h'
      simp [Memory.write, Memory.read?, h.symm]
    · simp [Memory.write, Memory.read?, show ¬ a < k by omega, show ¬ a = k by omega, ih]

theorem read?_write (m : Memory) (a c : Nat) (b : Byte) :
    (Memory.write m a b).read? c = if c = a then some b else m.read? c := by
  by_cases h : c = a
  · simp [h]
  · simp [h, read?_write_other]

/-- The indices a write leaves listed. -/
theorem mem_keys_write (m : Memory) (a x : Nat) (b : Byte) (h : x ∈ (Memory.write m a b).map Prod.fst) :
    x = a ∨ x ∈ m.map Prod.fst := by
  induction m with
  | nil => simpa [Memory.write] using h
  | cons e m ih =>
    obtain ⟨k, v⟩ := e
    rcases lt_trichotomy a k with h' | h' | h'
    · simpa [Memory.write, h'] using h
    · simp only [Memory.write, h', lt_irrefl, if_false, if_true, List.map_cons, List.mem_cons] at h ⊢
      tauto
    · simp only [Memory.write, show ¬ a < k by omega, show ¬ a = k by omega, if_false, List.map_cons,
        List.mem_cons] at h ⊢
      rcases h with h | h
      · exact .inr (.inl h)
      · rcases ih h with h | h
        · exact .inl h
        · exact .inr (.inr h)

/-- A write keeps the canonical form. -/
theorem write_wf (m : Memory) (a : Nat) (b : Byte) (h : m.wf) : (Memory.write m a b).wf := by
  induction m with
  | nil => simp [Memory.write, Memory.wf]
  | cons e m ih =>
    obtain ⟨k, v⟩ := e
    simp only [Memory.wf, List.map_cons, List.pairwise_cons] at h ⊢
    rcases lt_trichotomy a k with h' | h' | h'
    · simp only [Memory.write, h', if_true, List.map_cons, List.pairwise_cons, List.mem_cons]
      refine ⟨?_, h⟩
      rintro x (rfl | hx)
      · exact h'
      · exact h'.trans (h.1 x hx)
    · subst h'
      simpa [Memory.write] using h
    · simp only [Memory.write, show ¬ a < k by omega, show ¬ a = k by omega, if_false, List.map_cons,
        List.pairwise_cons]
      refine ⟨fun x hx => ?_, ih h.2⟩
      rcases mem_keys_write m a x b hx with hx | hx
      · exact hx ▸ h'
      · exact h.1 x hx

/-- A run of writes keeps the canonical form. -/
theorem writeRun_wf (bs : List Byte) : ∀ (m : Memory) (a : Nat), m.wf → (Memory.writeRun m a bs).wf := by
  induction bs with
  | nil => exact fun m _ h => h
  | cons b bs ih => exact fun m a h => ih _ _ (write_wf m a b h)

/-- What a run of writes leaves at every index: the run's bytes inside it, the old bytes outside. -/
theorem read?_writeRun (bs : List Byte) : ∀ (m : Memory) (a c : Nat),
    (Memory.writeRun m a bs).read? c =
      if a ≤ c ∧ c < a + bs.length then bs[c - a]? else m.read? c := by
  induction bs with
  | nil =>
    intro m a c
    simp [Memory.writeRun, show ¬ (a ≤ c ∧ c < a) by omega]
  | cons b bs ih =>
    intro m a c
    rw [Memory.writeRun, ih, read?_write, List.length_cons]
    by_cases h1 : c = a
    · subst h1
      simp [show ¬ (c + 1 ≤ c) by omega]
    · by_cases h2 : a + 1 ≤ c ∧ c < a + 1 + bs.length
      · rw [if_pos h2, if_pos (by omega), show c - a = (c - (a + 1)) + 1 by omega, List.getElem?_cons_succ]
      · rw [if_neg h2, if_neg h1, if_neg (by omega)]

theorem read?_writeRun_outside (bs : List Byte) (m : Memory) (a c : Nat) (h : c < a ∨ a + bs.length ≤ c) :
    (Memory.writeRun m a bs).read? c = m.read? c := by
  rw [read?_writeRun, if_neg (by omega)]

theorem read?_writeRun_inside (bs : List Byte) (m : Memory) (a k : Nat) (h : k < bs.length) :
    (Memory.writeRun m a bs).read? (a + k) = some bs[k] := by
  rw [read?_writeRun, if_pos (by omega), Nat.add_sub_cancel_left, List.getElem?_eq_getElem h]

end Memory
end Sys2Proof.Machine
end

