-- ==== Sys2Proof/Laws/State.lean ====
section
/-! SUPPORT. The field lemmas of State's updates: one lemma per field per update, all true by definition, so that no later
proof unfolds a record update. -/

namespace Sys2Proof.Machine


/-! ### setPattern -/

@[simp] theorem setPattern_hold (p : Byte) (s : State) : (s.setPattern p).hold = s.hold := rfl
@[simp] theorem setPattern_tf (p : Byte) (s : State) : (s.setPattern p).tf = s.tf := rfl
@[simp] theorem setPattern_sel (p : Byte) (s : State) : (s.setPattern p).sel = s.sel := rfl
@[simp] theorem setPattern_pending (p : Byte) (s : State) : (s.setPattern p).pending = s.pending := rfl
@[simp] theorem setPattern_rerun (p : Byte) (s : State) : (s.setPattern p).rerun = s.rerun := rfl
@[simp] theorem setPattern_status (p : Byte) (s : State) : (s.setPattern p).status = Machine.setPattern p s.status := rfl
@[simp] theorem setPattern_viol (p : Byte) (s : State) : (s.setPattern p).viol = s.viol := rfl
@[simp] theorem setPattern_overrun (p : Byte) (s : State) : (s.setPattern p).overrun = s.overrun := rfl
@[simp] theorem setPattern_excl (p : Byte) (s : State) : (s.setPattern p).excl = s.excl := rfl
@[simp] theorem setPattern_cur (p : Byte) (s : State) : (s.setPattern p).cur = s.cur := rfl
@[simp] theorem setPattern_fifo (p : Byte) (s : State) : (s.setPattern p).fifo = s.fifo := rfl
@[simp] theorem setPattern_dstate (p : Byte) (s : State) : (s.setPattern p).dstate = s.dstate := rfl
@[simp] theorem setPattern_xstep (p : Byte) (s : State) : (s.setPattern p).xstep = s.xstep := rfl
@[simp] theorem setPattern_xcmd (p : Byte) (s : State) : (s.setPattern p).xcmd = s.xcmd := rfl
@[simp] theorem setPattern_xdrv (p : Byte) (s : State) : (s.setPattern p).xdrv = s.xdrv := rfl
@[simp] theorem setPattern_capOff (p : Byte) (s : State) : (s.setPattern p).capOff = s.capOff := rfl
@[simp] theorem setPattern_capData (p : Byte) (s : State) : (s.setPattern p).capData = s.capData := rfl
@[simp] theorem setPattern_capDir (p : Byte) (s : State) : (s.setPattern p).capDir = s.capDir := rfl
@[simp] theorem setPattern_wait (p : Byte) (s : State) : (s.setPattern p).wait = s.wait := rfl
@[simp] theorem setPattern_dbdir (p : Byte) (s : State) : (s.setPattern p).dbdir = s.dbdir := rfl
@[simp] theorem setPattern_drv (p : Byte) (s : State) : (s.setPattern p).drv = s.drv := rfl
@[simp] theorem setPattern_disk (p : Byte) (s : State) : (s.setPattern p).disk = s.disk := rfl
@[simp] theorem setPattern_hostEvents (p : Byte) (s : State) : (s.setPattern p).hostEvents = s.hostEvents := rfl
@[simp] theorem setPattern_reads (p : Byte) (s : State) : (s.setPattern p).reads = s.reads := rfl
@[simp] theorem setPattern_storeAnswers (p : Byte) (s : State) : (s.setPattern p).storeAnswers = s.storeAnswers := rfl
@[simp] theorem setPattern_storeReqs (p : Byte) (s : State) : (s.setPattern p).storeReqs = s.storeReqs := rfl
@[simp] theorem setPattern_storeStuck (p : Byte) (s : State) : (s.setPattern p).storeStuck = s.storeStuck := rfl

/-! ### setError -/

@[simp] theorem setError_hold (s : State) : s.setError.hold = s.hold := rfl
@[simp] theorem setError_tf (s : State) : s.setError.tf = s.tf := rfl
@[simp] theorem setError_sel (s : State) : s.setError.sel = s.sel := rfl
@[simp] theorem setError_pending (s : State) : s.setError.pending = s.pending := rfl
@[simp] theorem setError_rerun (s : State) : s.setError.rerun = s.rerun := rfl
@[simp] theorem setError_status (s : State) : s.setError.status = setErrorBit s.status := rfl
@[simp] theorem setError_viol (s : State) : s.setError.viol = s.viol := rfl
@[simp] theorem setError_overrun (s : State) : s.setError.overrun = s.overrun := rfl
@[simp] theorem setError_excl (s : State) : s.setError.excl = s.excl := rfl
@[simp] theorem setError_cur (s : State) : s.setError.cur = s.cur := rfl
@[simp] theorem setError_fifo (s : State) : s.setError.fifo = s.fifo := rfl
@[simp] theorem setError_dstate (s : State) : s.setError.dstate = s.dstate := rfl
@[simp] theorem setError_xstep (s : State) : s.setError.xstep = s.xstep := rfl
@[simp] theorem setError_xcmd (s : State) : s.setError.xcmd = s.xcmd := rfl
@[simp] theorem setError_xdrv (s : State) : s.setError.xdrv = s.xdrv := rfl
@[simp] theorem setError_capOff (s : State) : s.setError.capOff = s.capOff := rfl
@[simp] theorem setError_capData (s : State) : s.setError.capData = s.capData := rfl
@[simp] theorem setError_capDir (s : State) : s.setError.capDir = s.capDir := rfl
@[simp] theorem setError_wait (s : State) : s.setError.wait = s.wait := rfl
@[simp] theorem setError_dbdir (s : State) : s.setError.dbdir = s.dbdir := rfl
@[simp] theorem setError_drv (s : State) : s.setError.drv = s.drv := rfl
@[simp] theorem setError_disk (s : State) : s.setError.disk = s.disk := rfl
@[simp] theorem setError_hostEvents (s : State) : s.setError.hostEvents = s.hostEvents := rfl
@[simp] theorem setError_reads (s : State) : s.setError.reads = s.reads := rfl
@[simp] theorem setError_storeAnswers (s : State) : s.setError.storeAnswers = s.storeAnswers := rfl
@[simp] theorem setError_storeReqs (s : State) : s.setError.storeReqs = s.storeReqs := rfl
@[simp] theorem setError_storeStuck (s : State) : s.setError.storeStuck = s.storeStuck := rfl

/-! ### clearError -/

@[simp] theorem clearError_hold (s : State) : s.clearError.hold = s.hold := rfl
@[simp] theorem clearError_tf (s : State) : s.clearError.tf = s.tf := rfl
@[simp] theorem clearError_sel (s : State) : s.clearError.sel = s.sel := rfl
@[simp] theorem clearError_pending (s : State) : s.clearError.pending = s.pending := rfl
@[simp] theorem clearError_rerun (s : State) : s.clearError.rerun = s.rerun := rfl
@[simp] theorem clearError_status (s : State) : s.clearError.status = clearErrorBit s.status := rfl
@[simp] theorem clearError_viol (s : State) : s.clearError.viol = s.viol := rfl
@[simp] theorem clearError_overrun (s : State) : s.clearError.overrun = s.overrun := rfl
@[simp] theorem clearError_excl (s : State) : s.clearError.excl = s.excl := rfl
@[simp] theorem clearError_cur (s : State) : s.clearError.cur = s.cur := rfl
@[simp] theorem clearError_fifo (s : State) : s.clearError.fifo = s.fifo := rfl
@[simp] theorem clearError_dstate (s : State) : s.clearError.dstate = s.dstate := rfl
@[simp] theorem clearError_xstep (s : State) : s.clearError.xstep = s.xstep := rfl
@[simp] theorem clearError_xcmd (s : State) : s.clearError.xcmd = s.xcmd := rfl
@[simp] theorem clearError_xdrv (s : State) : s.clearError.xdrv = s.xdrv := rfl
@[simp] theorem clearError_capOff (s : State) : s.clearError.capOff = s.capOff := rfl
@[simp] theorem clearError_capData (s : State) : s.clearError.capData = s.capData := rfl
@[simp] theorem clearError_capDir (s : State) : s.clearError.capDir = s.capDir := rfl
@[simp] theorem clearError_wait (s : State) : s.clearError.wait = s.wait := rfl
@[simp] theorem clearError_dbdir (s : State) : s.clearError.dbdir = s.dbdir := rfl
@[simp] theorem clearError_drv (s : State) : s.clearError.drv = s.drv := rfl
@[simp] theorem clearError_disk (s : State) : s.clearError.disk = s.disk := rfl
@[simp] theorem clearError_hostEvents (s : State) : s.clearError.hostEvents = s.hostEvents := rfl
@[simp] theorem clearError_reads (s : State) : s.clearError.reads = s.reads := rfl
@[simp] theorem clearError_storeAnswers (s : State) : s.clearError.storeAnswers = s.storeAnswers := rfl
@[simp] theorem clearError_storeReqs (s : State) : s.clearError.storeReqs = s.storeReqs := rfl
@[simp] theorem clearError_storeStuck (s : State) : s.clearError.storeStuck = s.storeStuck := rfl

/-! ### setDrive -/

@[simp] theorem setDrive_hold (d : Slot) (v : Drive) (s : State) : (s.setDrive d v).hold = s.hold := rfl
@[simp] theorem setDrive_tf (d : Slot) (v : Drive) (s : State) : (s.setDrive d v).tf = s.tf := rfl
@[simp] theorem setDrive_sel (d : Slot) (v : Drive) (s : State) : (s.setDrive d v).sel = s.sel := rfl
@[simp] theorem setDrive_pending (d : Slot) (v : Drive) (s : State) : (s.setDrive d v).pending = s.pending := rfl
@[simp] theorem setDrive_rerun (d : Slot) (v : Drive) (s : State) : (s.setDrive d v).rerun = s.rerun := rfl
@[simp] theorem setDrive_status (d : Slot) (v : Drive) (s : State) : (s.setDrive d v).status = s.status := rfl
@[simp] theorem setDrive_viol (d : Slot) (v : Drive) (s : State) : (s.setDrive d v).viol = s.viol := rfl
@[simp] theorem setDrive_overrun (d : Slot) (v : Drive) (s : State) : (s.setDrive d v).overrun = s.overrun := rfl
@[simp] theorem setDrive_excl (d : Slot) (v : Drive) (s : State) : (s.setDrive d v).excl = s.excl := rfl
@[simp] theorem setDrive_cur (d : Slot) (v : Drive) (s : State) : (s.setDrive d v).cur = s.cur := rfl
@[simp] theorem setDrive_fifo (d : Slot) (v : Drive) (s : State) : (s.setDrive d v).fifo = s.fifo := rfl
@[simp] theorem setDrive_dstate (d : Slot) (v : Drive) (s : State) : (s.setDrive d v).dstate = s.dstate := rfl
@[simp] theorem setDrive_xstep (d : Slot) (v : Drive) (s : State) : (s.setDrive d v).xstep = s.xstep := rfl
@[simp] theorem setDrive_xcmd (d : Slot) (v : Drive) (s : State) : (s.setDrive d v).xcmd = s.xcmd := rfl
@[simp] theorem setDrive_xdrv (d : Slot) (v : Drive) (s : State) : (s.setDrive d v).xdrv = s.xdrv := rfl
@[simp] theorem setDrive_capOff (d : Slot) (v : Drive) (s : State) : (s.setDrive d v).capOff = s.capOff := rfl
@[simp] theorem setDrive_capData (d : Slot) (v : Drive) (s : State) : (s.setDrive d v).capData = s.capData := rfl
@[simp] theorem setDrive_capDir (d : Slot) (v : Drive) (s : State) : (s.setDrive d v).capDir = s.capDir := rfl
@[simp] theorem setDrive_wait (d : Slot) (v : Drive) (s : State) : (s.setDrive d v).wait = s.wait := rfl
@[simp] theorem setDrive_dbdir (d : Slot) (v : Drive) (s : State) : (s.setDrive d v).dbdir = s.dbdir := rfl
@[simp] theorem setDrive_drv (d : Slot) (v : Drive) (s : State) : (s.setDrive d v).drv = s.drv.set d v := rfl
@[simp] theorem setDrive_disk (d : Slot) (v : Drive) (s : State) : (s.setDrive d v).disk = s.disk := rfl
@[simp] theorem setDrive_hostEvents (d : Slot) (v : Drive) (s : State) : (s.setDrive d v).hostEvents = s.hostEvents := rfl
@[simp] theorem setDrive_reads (d : Slot) (v : Drive) (s : State) : (s.setDrive d v).reads = s.reads := rfl
@[simp] theorem setDrive_storeAnswers (d : Slot) (v : Drive) (s : State) : (s.setDrive d v).storeAnswers = s.storeAnswers := rfl
@[simp] theorem setDrive_storeReqs (d : Slot) (v : Drive) (s : State) : (s.setDrive d v).storeReqs = s.storeReqs := rfl
@[simp] theorem setDrive_storeStuck (d : Slot) (v : Drive) (s : State) : (s.setDrive d v).storeStuck = s.storeStuck := rfl

/-! ### setDisk -/

@[simp] theorem setDisk_hold (d : Slot) (f : DiskFile) (s : State) : (s.setDisk d f).hold = s.hold := rfl
@[simp] theorem setDisk_tf (d : Slot) (f : DiskFile) (s : State) : (s.setDisk d f).tf = s.tf := rfl
@[simp] theorem setDisk_sel (d : Slot) (f : DiskFile) (s : State) : (s.setDisk d f).sel = s.sel := rfl
@[simp] theorem setDisk_pending (d : Slot) (f : DiskFile) (s : State) : (s.setDisk d f).pending = s.pending := rfl
@[simp] theorem setDisk_rerun (d : Slot) (f : DiskFile) (s : State) : (s.setDisk d f).rerun = s.rerun := rfl
@[simp] theorem setDisk_status (d : Slot) (f : DiskFile) (s : State) : (s.setDisk d f).status = s.status := rfl
@[simp] theorem setDisk_viol (d : Slot) (f : DiskFile) (s : State) : (s.setDisk d f).viol = s.viol := rfl
@[simp] theorem setDisk_overrun (d : Slot) (f : DiskFile) (s : State) : (s.setDisk d f).overrun = s.overrun := rfl
@[simp] theorem setDisk_excl (d : Slot) (f : DiskFile) (s : State) : (s.setDisk d f).excl = s.excl := rfl
@[simp] theorem setDisk_cur (d : Slot) (f : DiskFile) (s : State) : (s.setDisk d f).cur = s.cur := rfl
@[simp] theorem setDisk_fifo (d : Slot) (f : DiskFile) (s : State) : (s.setDisk d f).fifo = s.fifo := rfl
@[simp] theorem setDisk_dstate (d : Slot) (f : DiskFile) (s : State) : (s.setDisk d f).dstate = s.dstate := rfl
@[simp] theorem setDisk_xstep (d : Slot) (f : DiskFile) (s : State) : (s.setDisk d f).xstep = s.xstep := rfl
@[simp] theorem setDisk_xcmd (d : Slot) (f : DiskFile) (s : State) : (s.setDisk d f).xcmd = s.xcmd := rfl
@[simp] theorem setDisk_xdrv (d : Slot) (f : DiskFile) (s : State) : (s.setDisk d f).xdrv = s.xdrv := rfl
@[simp] theorem setDisk_capOff (d : Slot) (f : DiskFile) (s : State) : (s.setDisk d f).capOff = s.capOff := rfl
@[simp] theorem setDisk_capData (d : Slot) (f : DiskFile) (s : State) : (s.setDisk d f).capData = s.capData := rfl
@[simp] theorem setDisk_capDir (d : Slot) (f : DiskFile) (s : State) : (s.setDisk d f).capDir = s.capDir := rfl
@[simp] theorem setDisk_wait (d : Slot) (f : DiskFile) (s : State) : (s.setDisk d f).wait = s.wait := rfl
@[simp] theorem setDisk_dbdir (d : Slot) (f : DiskFile) (s : State) : (s.setDisk d f).dbdir = s.dbdir := rfl
@[simp] theorem setDisk_drv (d : Slot) (f : DiskFile) (s : State) : (s.setDisk d f).drv = s.drv := rfl
@[simp] theorem setDisk_disk (d : Slot) (f : DiskFile) (s : State) : (s.setDisk d f).disk = s.disk.set d f := rfl
@[simp] theorem setDisk_hostEvents (d : Slot) (f : DiskFile) (s : State) : (s.setDisk d f).hostEvents = s.hostEvents := rfl
@[simp] theorem setDisk_reads (d : Slot) (f : DiskFile) (s : State) : (s.setDisk d f).reads = s.reads := rfl
@[simp] theorem setDisk_storeAnswers (d : Slot) (f : DiskFile) (s : State) : (s.setDisk d f).storeAnswers = s.storeAnswers := rfl
@[simp] theorem setDisk_storeReqs (d : Slot) (f : DiskFile) (s : State) : (s.setDisk d f).storeReqs = s.storeReqs := rfl
@[simp] theorem setDisk_storeStuck (d : Slot) (f : DiskFile) (s : State) : (s.setDisk d f).storeStuck = s.storeStuck := rfl

/-! ### setReady -/

@[simp] theorem setReady_hold (d : Slot) (b : Bool) (s : State) : (s.setReady d b).hold = s.hold := rfl
@[simp] theorem setReady_tf (d : Slot) (b : Bool) (s : State) : (s.setReady d b).tf = s.tf := rfl
@[simp] theorem setReady_sel (d : Slot) (b : Bool) (s : State) : (s.setReady d b).sel = s.sel := rfl
@[simp] theorem setReady_pending (d : Slot) (b : Bool) (s : State) : (s.setReady d b).pending = s.pending := rfl
@[simp] theorem setReady_rerun (d : Slot) (b : Bool) (s : State) : (s.setReady d b).rerun = s.rerun := rfl
@[simp] theorem setReady_status (d : Slot) (b : Bool) (s : State) : (s.setReady d b).status = s.status := rfl
@[simp] theorem setReady_viol (d : Slot) (b : Bool) (s : State) : (s.setReady d b).viol = s.viol := rfl
@[simp] theorem setReady_overrun (d : Slot) (b : Bool) (s : State) : (s.setReady d b).overrun = s.overrun := rfl
@[simp] theorem setReady_excl (d : Slot) (b : Bool) (s : State) : (s.setReady d b).excl = s.excl := rfl
@[simp] theorem setReady_cur (d : Slot) (b : Bool) (s : State) : (s.setReady d b).cur = s.cur := rfl
@[simp] theorem setReady_fifo (d : Slot) (b : Bool) (s : State) : (s.setReady d b).fifo = s.fifo := rfl
@[simp] theorem setReady_dstate (d : Slot) (b : Bool) (s : State) : (s.setReady d b).dstate = s.dstate := rfl
@[simp] theorem setReady_xstep (d : Slot) (b : Bool) (s : State) : (s.setReady d b).xstep = s.xstep := rfl
@[simp] theorem setReady_xcmd (d : Slot) (b : Bool) (s : State) : (s.setReady d b).xcmd = s.xcmd := rfl
@[simp] theorem setReady_xdrv (d : Slot) (b : Bool) (s : State) : (s.setReady d b).xdrv = s.xdrv := rfl
@[simp] theorem setReady_capOff (d : Slot) (b : Bool) (s : State) : (s.setReady d b).capOff = s.capOff := rfl
@[simp] theorem setReady_capData (d : Slot) (b : Bool) (s : State) : (s.setReady d b).capData = s.capData := rfl
@[simp] theorem setReady_capDir (d : Slot) (b : Bool) (s : State) : (s.setReady d b).capDir = s.capDir := rfl
@[simp] theorem setReady_wait (d : Slot) (b : Bool) (s : State) : (s.setReady d b).wait = s.wait := rfl
@[simp] theorem setReady_dbdir (d : Slot) (b : Bool) (s : State) : (s.setReady d b).dbdir = s.dbdir := rfl
@[simp] theorem setReady_drv (d : Slot) (b : Bool) (s : State) : (s.setReady d b).drv = s.drv.set d { s.drv.get d with ready := b } := rfl
@[simp] theorem setReady_disk (d : Slot) (b : Bool) (s : State) : (s.setReady d b).disk = s.disk := rfl
@[simp] theorem setReady_hostEvents (d : Slot) (b : Bool) (s : State) : (s.setReady d b).hostEvents = s.hostEvents := rfl
@[simp] theorem setReady_reads (d : Slot) (b : Bool) (s : State) : (s.setReady d b).reads = s.reads := rfl
@[simp] theorem setReady_storeAnswers (d : Slot) (b : Bool) (s : State) : (s.setReady d b).storeAnswers = s.storeAnswers := rfl
@[simp] theorem setReady_storeReqs (d : Slot) (b : Bool) (s : State) : (s.setReady d b).storeReqs = s.storeReqs := rfl
@[simp] theorem setReady_storeStuck (d : Slot) (b : Bool) (s : State) : (s.setReady d b).storeStuck = s.storeStuck := rfl

/-! ### issue -/

@[simp] theorem issue_hold (s : State) : s.issue.hold = s.hold := rfl
@[simp] theorem issue_tf (s : State) : s.issue.tf = s.tf := rfl
@[simp] theorem issue_sel (s : State) : s.issue.sel = s.sel := rfl
@[simp] theorem issue_pending (s : State) : s.issue.pending = s.pending := rfl
@[simp] theorem issue_rerun (s : State) : s.issue.rerun = s.rerun := rfl
@[simp] theorem issue_status (s : State) : s.issue.status = s.status := rfl
@[simp] theorem issue_viol (s : State) : s.issue.viol = s.viol := rfl
@[simp] theorem issue_overrun (s : State) : s.issue.overrun = s.overrun := rfl
@[simp] theorem issue_excl (s : State) : s.issue.excl = s.excl := rfl
@[simp] theorem issue_cur (s : State) : s.issue.cur = s.cur := rfl
@[simp] theorem issue_fifo (s : State) : s.issue.fifo = s.fifo := rfl
@[simp] theorem issue_dstate (s : State) : s.issue.dstate = s.dstate := rfl
@[simp] theorem issue_xstep (s : State) : s.issue.xstep = s.xstep := rfl
@[simp] theorem issue_xcmd (s : State) : s.issue.xcmd = s.xcmd := rfl
@[simp] theorem issue_xdrv (s : State) : s.issue.xdrv = s.xdrv := rfl
@[simp] theorem issue_capOff (s : State) : s.issue.capOff = s.capOff := rfl
@[simp] theorem issue_capData (s : State) : s.issue.capData = s.capData := rfl
@[simp] theorem issue_capDir (s : State) : s.issue.capDir = s.capDir := rfl
@[simp] theorem issue_wait (s : State) : s.issue.wait = s.wait := rfl
@[simp] theorem issue_dbdir (s : State) : s.issue.dbdir = s.dbdir := rfl
@[simp] theorem issue_drv (s : State) : s.issue.drv = s.drv := rfl
@[simp] theorem issue_disk (s : State) : s.issue.disk = s.disk := rfl
@[simp] theorem issue_hostEvents (s : State) : s.issue.hostEvents = s.hostEvents := rfl
@[simp] theorem issue_reads (s : State) : s.issue.reads = s.reads := rfl
@[simp] theorem issue_storeAnswers (s : State) : s.issue.storeAnswers = s.storeAnswers := rfl
@[simp] theorem issue_storeReqs (s : State) : s.issue.storeReqs = s.storeReqs + 1 := rfl
@[simp] theorem issue_storeStuck (s : State) : s.issue.storeStuck = s.storeStuck := rfl

/-! ### issueAnswered -/

@[simp] theorem issueAnswered_hold (s : State) : s.issueAnswered.hold = s.hold := rfl
@[simp] theorem issueAnswered_tf (s : State) : s.issueAnswered.tf = s.tf := rfl
@[simp] theorem issueAnswered_sel (s : State) : s.issueAnswered.sel = s.sel := rfl
@[simp] theorem issueAnswered_pending (s : State) : s.issueAnswered.pending = s.pending := rfl
@[simp] theorem issueAnswered_rerun (s : State) : s.issueAnswered.rerun = s.rerun := rfl
@[simp] theorem issueAnswered_status (s : State) : s.issueAnswered.status = s.status := rfl
@[simp] theorem issueAnswered_viol (s : State) : s.issueAnswered.viol = s.viol := rfl
@[simp] theorem issueAnswered_overrun (s : State) : s.issueAnswered.overrun = s.overrun := rfl
@[simp] theorem issueAnswered_excl (s : State) : s.issueAnswered.excl = s.excl := rfl
@[simp] theorem issueAnswered_cur (s : State) : s.issueAnswered.cur = s.cur := rfl
@[simp] theorem issueAnswered_fifo (s : State) : s.issueAnswered.fifo = s.fifo := rfl
@[simp] theorem issueAnswered_dstate (s : State) : s.issueAnswered.dstate = s.dstate := rfl
@[simp] theorem issueAnswered_xstep (s : State) : s.issueAnswered.xstep = s.xstep := rfl
@[simp] theorem issueAnswered_xcmd (s : State) : s.issueAnswered.xcmd = s.xcmd := rfl
@[simp] theorem issueAnswered_xdrv (s : State) : s.issueAnswered.xdrv = s.xdrv := rfl
@[simp] theorem issueAnswered_capOff (s : State) : s.issueAnswered.capOff = s.capOff := rfl
@[simp] theorem issueAnswered_capData (s : State) : s.issueAnswered.capData = s.capData := rfl
@[simp] theorem issueAnswered_capDir (s : State) : s.issueAnswered.capDir = s.capDir := rfl
@[simp] theorem issueAnswered_wait (s : State) : s.issueAnswered.wait = s.wait := rfl
@[simp] theorem issueAnswered_dbdir (s : State) : s.issueAnswered.dbdir = s.dbdir := rfl
@[simp] theorem issueAnswered_drv (s : State) : s.issueAnswered.drv = s.drv := rfl
@[simp] theorem issueAnswered_disk (s : State) : s.issueAnswered.disk = s.disk := rfl
@[simp] theorem issueAnswered_hostEvents (s : State) : s.issueAnswered.hostEvents = s.hostEvents := rfl
@[simp] theorem issueAnswered_reads (s : State) : s.issueAnswered.reads = s.reads := rfl
@[simp] theorem issueAnswered_storeAnswers (s : State) : s.issueAnswered.storeAnswers = s.storeAnswers.tail := rfl
@[simp] theorem issueAnswered_storeReqs (s : State) : s.issueAnswered.storeReqs = s.storeReqs + 1 := rfl
@[simp] theorem issueAnswered_storeStuck (s : State) : s.issueAnswered.storeStuck = s.storeStuck := rfl

/-! ### fifoReset -/

@[simp] theorem fifoReset_hold (s : State) : (fifoReset s).hold = s.hold := rfl
@[simp] theorem fifoReset_tf (s : State) : (fifoReset s).tf = s.tf := rfl
@[simp] theorem fifoReset_sel (s : State) : (fifoReset s).sel = s.sel := rfl
@[simp] theorem fifoReset_pending (s : State) : (fifoReset s).pending = s.pending := rfl
@[simp] theorem fifoReset_rerun (s : State) : (fifoReset s).rerun = s.rerun := rfl
@[simp] theorem fifoReset_status (s : State) : (fifoReset s).status = s.status := rfl
@[simp] theorem fifoReset_viol (s : State) : (fifoReset s).viol = s.viol := rfl
@[simp] theorem fifoReset_overrun (s : State) : (fifoReset s).overrun = s.overrun := rfl
@[simp] theorem fifoReset_excl (s : State) : (fifoReset s).excl = s.excl := rfl
@[simp] theorem fifoReset_cur (s : State) : (fifoReset s).cur = 0 := rfl
@[simp] theorem fifoReset_fifo (s : State) : (fifoReset s).fifo = s.fifo := rfl
@[simp] theorem fifoReset_dstate (s : State) : (fifoReset s).dstate = s.dstate := rfl
@[simp] theorem fifoReset_xstep (s : State) : (fifoReset s).xstep = s.xstep := rfl
@[simp] theorem fifoReset_xcmd (s : State) : (fifoReset s).xcmd = s.xcmd := rfl
@[simp] theorem fifoReset_xdrv (s : State) : (fifoReset s).xdrv = s.xdrv := rfl
@[simp] theorem fifoReset_capOff (s : State) : (fifoReset s).capOff = s.capOff := rfl
@[simp] theorem fifoReset_capData (s : State) : (fifoReset s).capData = s.capData := rfl
@[simp] theorem fifoReset_capDir (s : State) : (fifoReset s).capDir = s.capDir := rfl
@[simp] theorem fifoReset_wait (s : State) : (fifoReset s).wait = s.wait := rfl
@[simp] theorem fifoReset_dbdir (s : State) : (fifoReset s).dbdir = s.dbdir := rfl
@[simp] theorem fifoReset_drv (s : State) : (fifoReset s).drv = s.drv := rfl
@[simp] theorem fifoReset_disk (s : State) : (fifoReset s).disk = s.disk := rfl
@[simp] theorem fifoReset_hostEvents (s : State) : (fifoReset s).hostEvents = s.hostEvents := rfl
@[simp] theorem fifoReset_reads (s : State) : (fifoReset s).reads = s.reads := rfl
@[simp] theorem fifoReset_storeAnswers (s : State) : (fifoReset s).storeAnswers = s.storeAnswers := rfl
@[simp] theorem fifoReset_storeReqs (s : State) : (fifoReset s).storeReqs = s.storeReqs := rfl
@[simp] theorem fifoReset_storeStuck (s : State) : (fifoReset s).storeStuck = s.storeStuck := rfl

/-! ### bulkIn -/

@[simp] theorem bulkIn_hold (data : List Byte) (s : State) : (bulkIn data s).hold = s.hold := rfl
@[simp] theorem bulkIn_tf (data : List Byte) (s : State) : (bulkIn data s).tf = s.tf := rfl
@[simp] theorem bulkIn_sel (data : List Byte) (s : State) : (bulkIn data s).sel = s.sel := rfl
@[simp] theorem bulkIn_pending (data : List Byte) (s : State) : (bulkIn data s).pending = s.pending := rfl
@[simp] theorem bulkIn_rerun (data : List Byte) (s : State) : (bulkIn data s).rerun = s.rerun := rfl
@[simp] theorem bulkIn_status (data : List Byte) (s : State) : (bulkIn data s).status = s.status := rfl
@[simp] theorem bulkIn_viol (data : List Byte) (s : State) : (bulkIn data s).viol = s.viol := rfl
@[simp] theorem bulkIn_overrun (data : List Byte) (s : State) : (bulkIn data s).overrun = s.overrun := rfl
@[simp] theorem bulkIn_excl (data : List Byte) (s : State) : (bulkIn data s).excl = s.excl := rfl
@[simp] theorem bulkIn_cur (data : List Byte) (s : State) : (bulkIn data s).cur = s.cur := rfl
@[simp] theorem bulkIn_fifo (data : List Byte) (s : State) : (bulkIn data s).fifo = s.fifo.writeRun 0 data := rfl
@[simp] theorem bulkIn_dstate (data : List Byte) (s : State) : (bulkIn data s).dstate = s.dstate := rfl
@[simp] theorem bulkIn_xstep (data : List Byte) (s : State) : (bulkIn data s).xstep = s.xstep := rfl
@[simp] theorem bulkIn_xcmd (data : List Byte) (s : State) : (bulkIn data s).xcmd = s.xcmd := rfl
@[simp] theorem bulkIn_xdrv (data : List Byte) (s : State) : (bulkIn data s).xdrv = s.xdrv := rfl
@[simp] theorem bulkIn_capOff (data : List Byte) (s : State) : (bulkIn data s).capOff = s.capOff := rfl
@[simp] theorem bulkIn_capData (data : List Byte) (s : State) : (bulkIn data s).capData = s.capData := rfl
@[simp] theorem bulkIn_capDir (data : List Byte) (s : State) : (bulkIn data s).capDir = s.capDir := rfl
@[simp] theorem bulkIn_wait (data : List Byte) (s : State) : (bulkIn data s).wait = s.wait := rfl
@[simp] theorem bulkIn_dbdir (data : List Byte) (s : State) : (bulkIn data s).dbdir = s.dbdir := rfl
@[simp] theorem bulkIn_drv (data : List Byte) (s : State) : (bulkIn data s).drv = s.drv := rfl
@[simp] theorem bulkIn_disk (data : List Byte) (s : State) : (bulkIn data s).disk = s.disk := rfl
@[simp] theorem bulkIn_hostEvents (data : List Byte) (s : State) : (bulkIn data s).hostEvents = s.hostEvents := rfl
@[simp] theorem bulkIn_reads (data : List Byte) (s : State) : (bulkIn data s).reads = s.reads := rfl
@[simp] theorem bulkIn_storeAnswers (data : List Byte) (s : State) : (bulkIn data s).storeAnswers = s.storeAnswers := rfl
@[simp] theorem bulkIn_storeReqs (data : List Byte) (s : State) : (bulkIn data s).storeReqs = s.storeReqs := rfl
@[simp] theorem bulkIn_storeStuck (data : List Byte) (s : State) : (bulkIn data s).storeStuck = s.storeStuck := rfl

/-! ### holdWrite -/

@[simp] theorem holdWrite_hold (i : Slot) (b : Byte) (s : State) : (holdWrite i b s).hold = s.hold.set i b := rfl
@[simp] theorem holdWrite_tf (i : Slot) (b : Byte) (s : State) : (holdWrite i b s).tf = s.tf := rfl
@[simp] theorem holdWrite_sel (i : Slot) (b : Byte) (s : State) : (holdWrite i b s).sel = s.sel := rfl
@[simp] theorem holdWrite_pending (i : Slot) (b : Byte) (s : State) : (holdWrite i b s).pending = s.pending := rfl
@[simp] theorem holdWrite_rerun (i : Slot) (b : Byte) (s : State) : (holdWrite i b s).rerun = s.rerun := rfl
@[simp] theorem holdWrite_status (i : Slot) (b : Byte) (s : State) : (holdWrite i b s).status = s.status := rfl
@[simp] theorem holdWrite_viol (i : Slot) (b : Byte) (s : State) : (holdWrite i b s).viol = s.viol := rfl
@[simp] theorem holdWrite_overrun (i : Slot) (b : Byte) (s : State) : (holdWrite i b s).overrun = s.overrun := rfl
@[simp] theorem holdWrite_excl (i : Slot) (b : Byte) (s : State) : (holdWrite i b s).excl = s.excl := rfl
@[simp] theorem holdWrite_cur (i : Slot) (b : Byte) (s : State) : (holdWrite i b s).cur = s.cur := rfl
@[simp] theorem holdWrite_fifo (i : Slot) (b : Byte) (s : State) : (holdWrite i b s).fifo = s.fifo := rfl
@[simp] theorem holdWrite_dstate (i : Slot) (b : Byte) (s : State) : (holdWrite i b s).dstate = s.dstate := rfl
@[simp] theorem holdWrite_xstep (i : Slot) (b : Byte) (s : State) : (holdWrite i b s).xstep = s.xstep := rfl
@[simp] theorem holdWrite_xcmd (i : Slot) (b : Byte) (s : State) : (holdWrite i b s).xcmd = s.xcmd := rfl
@[simp] theorem holdWrite_xdrv (i : Slot) (b : Byte) (s : State) : (holdWrite i b s).xdrv = s.xdrv := rfl
@[simp] theorem holdWrite_capOff (i : Slot) (b : Byte) (s : State) : (holdWrite i b s).capOff = s.capOff := rfl
@[simp] theorem holdWrite_capData (i : Slot) (b : Byte) (s : State) : (holdWrite i b s).capData = s.capData := rfl
@[simp] theorem holdWrite_capDir (i : Slot) (b : Byte) (s : State) : (holdWrite i b s).capDir = s.capDir := rfl
@[simp] theorem holdWrite_wait (i : Slot) (b : Byte) (s : State) : (holdWrite i b s).wait = s.wait := rfl
@[simp] theorem holdWrite_dbdir (i : Slot) (b : Byte) (s : State) : (holdWrite i b s).dbdir = s.dbdir := rfl
@[simp] theorem holdWrite_drv (i : Slot) (b : Byte) (s : State) : (holdWrite i b s).drv = s.drv := rfl
@[simp] theorem holdWrite_disk (i : Slot) (b : Byte) (s : State) : (holdWrite i b s).disk = s.disk := rfl
@[simp] theorem holdWrite_hostEvents (i : Slot) (b : Byte) (s : State) : (holdWrite i b s).hostEvents = s.hostEvents := rfl
@[simp] theorem holdWrite_reads (i : Slot) (b : Byte) (s : State) : (holdWrite i b s).reads = s.reads := rfl
@[simp] theorem holdWrite_storeAnswers (i : Slot) (b : Byte) (s : State) : (holdWrite i b s).storeAnswers = s.storeAnswers := rfl
@[simp] theorem holdWrite_storeReqs (i : Slot) (b : Byte) (s : State) : (holdWrite i b s).storeReqs = s.storeReqs := rfl
@[simp] theorem holdWrite_storeStuck (i : Slot) (b : Byte) (s : State) : (holdWrite i b s).storeStuck = s.storeStuck := rfl

/-! ### captureCycle -/

@[simp] theorem captureCycle_hold (c : BusCycle) (s : State) : (captureCycle c s).hold = s.hold := rfl
@[simp] theorem captureCycle_tf (c : BusCycle) (s : State) : (captureCycle c s).tf = s.tf := rfl
@[simp] theorem captureCycle_sel (c : BusCycle) (s : State) : (captureCycle c s).sel = s.sel := rfl
@[simp] theorem captureCycle_pending (c : BusCycle) (s : State) : (captureCycle c s).pending = s.pending := rfl
@[simp] theorem captureCycle_rerun (c : BusCycle) (s : State) : (captureCycle c s).rerun = s.rerun := rfl
@[simp] theorem captureCycle_status (c : BusCycle) (s : State) : (captureCycle c s).status = s.status := rfl
@[simp] theorem captureCycle_viol (c : BusCycle) (s : State) : (captureCycle c s).viol = s.viol := rfl
@[simp] theorem captureCycle_overrun (c : BusCycle) (s : State) : (captureCycle c s).overrun = s.overrun := rfl
@[simp] theorem captureCycle_excl (c : BusCycle) (s : State) : (captureCycle c s).excl = s.excl := rfl
@[simp] theorem captureCycle_cur (c : BusCycle) (s : State) : (captureCycle c s).cur = s.cur := rfl
@[simp] theorem captureCycle_fifo (c : BusCycle) (s : State) : (captureCycle c s).fifo = s.fifo := rfl
@[simp] theorem captureCycle_dstate (c : BusCycle) (s : State) : (captureCycle c s).dstate = s.dstate := rfl
@[simp] theorem captureCycle_xstep (c : BusCycle) (s : State) : (captureCycle c s).xstep = s.xstep := rfl
@[simp] theorem captureCycle_xcmd (c : BusCycle) (s : State) : (captureCycle c s).xcmd = s.xcmd := rfl
@[simp] theorem captureCycle_xdrv (c : BusCycle) (s : State) : (captureCycle c s).xdrv = s.xdrv := rfl
@[simp] theorem captureCycle_capOff (c : BusCycle) (s : State) : (captureCycle c s).capOff = c.off := rfl
@[simp] theorem captureCycle_capData (c : BusCycle) (s : State) : (captureCycle c s).capData = c.data := rfl
@[simp] theorem captureCycle_capDir (c : BusCycle) (s : State) : (captureCycle c s).capDir = c.dir := rfl
@[simp] theorem captureCycle_wait (c : BusCycle) (s : State) : (captureCycle c s).wait = true := rfl
@[simp] theorem captureCycle_dbdir (c : BusCycle) (s : State) : (captureCycle c s).dbdir = s.dbdir := rfl
@[simp] theorem captureCycle_drv (c : BusCycle) (s : State) : (captureCycle c s).drv = s.drv := rfl
@[simp] theorem captureCycle_disk (c : BusCycle) (s : State) : (captureCycle c s).disk = s.disk := rfl
@[simp] theorem captureCycle_hostEvents (c : BusCycle) (s : State) : (captureCycle c s).hostEvents = s.hostEvents := rfl
@[simp] theorem captureCycle_reads (c : BusCycle) (s : State) : (captureCycle c s).reads = s.reads := rfl
@[simp] theorem captureCycle_storeAnswers (c : BusCycle) (s : State) : (captureCycle c s).storeAnswers = s.storeAnswers := rfl
@[simp] theorem captureCycle_storeReqs (c : BusCycle) (s : State) : (captureCycle c s).storeReqs = s.storeReqs := rfl
@[simp] theorem captureCycle_storeStuck (c : BusCycle) (s : State) : (captureCycle c s).storeStuck = s.storeStuck := rfl

/-! ### driveRead -/

@[simp] theorem driveRead_hold (v : Byte) (s : State) : (driveRead v s).hold = s.hold := rfl
@[simp] theorem driveRead_tf (v : Byte) (s : State) : (driveRead v s).tf = s.tf := rfl
@[simp] theorem driveRead_sel (v : Byte) (s : State) : (driveRead v s).sel = s.sel := rfl
@[simp] theorem driveRead_pending (v : Byte) (s : State) : (driveRead v s).pending = s.pending := rfl
@[simp] theorem driveRead_rerun (v : Byte) (s : State) : (driveRead v s).rerun = s.rerun := rfl
@[simp] theorem driveRead_status (v : Byte) (s : State) : (driveRead v s).status = s.status := rfl
@[simp] theorem driveRead_viol (v : Byte) (s : State) : (driveRead v s).viol = s.viol := rfl
@[simp] theorem driveRead_overrun (v : Byte) (s : State) : (driveRead v s).overrun = s.overrun := rfl
@[simp] theorem driveRead_excl (v : Byte) (s : State) : (driveRead v s).excl = s.excl := rfl
@[simp] theorem driveRead_cur (v : Byte) (s : State) : (driveRead v s).cur = s.cur := rfl
@[simp] theorem driveRead_fifo (v : Byte) (s : State) : (driveRead v s).fifo = s.fifo := rfl
@[simp] theorem driveRead_dstate (v : Byte) (s : State) : (driveRead v s).dstate = s.dstate := rfl
@[simp] theorem driveRead_xstep (v : Byte) (s : State) : (driveRead v s).xstep = s.xstep := rfl
@[simp] theorem driveRead_xcmd (v : Byte) (s : State) : (driveRead v s).xcmd = s.xcmd := rfl
@[simp] theorem driveRead_xdrv (v : Byte) (s : State) : (driveRead v s).xdrv = s.xdrv := rfl
@[simp] theorem driveRead_capOff (v : Byte) (s : State) : (driveRead v s).capOff = s.capOff := rfl
@[simp] theorem driveRead_capData (v : Byte) (s : State) : (driveRead v s).capData = s.capData := rfl
@[simp] theorem driveRead_capDir (v : Byte) (s : State) : (driveRead v s).capDir = s.capDir := rfl
@[simp] theorem driveRead_wait (v : Byte) (s : State) : (driveRead v s).wait = s.wait := rfl
@[simp] theorem driveRead_dbdir (v : Byte) (s : State) : (driveRead v s).dbdir = .output := rfl
@[simp] theorem driveRead_drv (v : Byte) (s : State) : (driveRead v s).drv = s.drv := rfl
@[simp] theorem driveRead_disk (v : Byte) (s : State) : (driveRead v s).disk = s.disk := rfl
@[simp] theorem driveRead_hostEvents (v : Byte) (s : State) : (driveRead v s).hostEvents = s.hostEvents := rfl
@[simp] theorem driveRead_reads (v : Byte) (s : State) : (driveRead v s).reads = s.reads ++ [v] := rfl
@[simp] theorem driveRead_storeAnswers (v : Byte) (s : State) : (driveRead v s).storeAnswers = s.storeAnswers := rfl
@[simp] theorem driveRead_storeReqs (v : Byte) (s : State) : (driveRead v s).storeReqs = s.storeReqs := rfl
@[simp] theorem driveRead_storeStuck (v : Byte) (s : State) : (driveRead v s).storeStuck = s.storeStuck := rfl

/-! ### endService -/

@[simp] theorem endService_hold (s : State) : (endService s).hold = s.hold := rfl
@[simp] theorem endService_tf (s : State) : (endService s).tf = s.tf := rfl
@[simp] theorem endService_sel (s : State) : (endService s).sel = s.sel := rfl
@[simp] theorem endService_pending (s : State) : (endService s).pending = s.pending := rfl
@[simp] theorem endService_rerun (s : State) : (endService s).rerun = s.rerun := rfl
@[simp] theorem endService_status (s : State) : (endService s).status = s.status := rfl
@[simp] theorem endService_viol (s : State) : (endService s).viol = s.viol := rfl
@[simp] theorem endService_overrun (s : State) : (endService s).overrun = s.overrun := rfl
@[simp] theorem endService_excl (s : State) : (endService s).excl = s.excl := rfl
@[simp] theorem endService_cur (s : State) : (endService s).cur = s.cur := rfl
@[simp] theorem endService_fifo (s : State) : (endService s).fifo = s.fifo := rfl
@[simp] theorem endService_dstate (s : State) : (endService s).dstate = s.dstate := rfl
@[simp] theorem endService_xstep (s : State) : (endService s).xstep = s.xstep := rfl
@[simp] theorem endService_xcmd (s : State) : (endService s).xcmd = s.xcmd := rfl
@[simp] theorem endService_xdrv (s : State) : (endService s).xdrv = s.xdrv := rfl
@[simp] theorem endService_capOff (s : State) : (endService s).capOff = s.capOff := rfl
@[simp] theorem endService_capData (s : State) : (endService s).capData = s.capData := rfl
@[simp] theorem endService_capDir (s : State) : (endService s).capDir = s.capDir := rfl
@[simp] theorem endService_wait (s : State) : (endService s).wait = false := rfl
@[simp] theorem endService_dbdir (s : State) : (endService s).dbdir = .input := rfl
@[simp] theorem endService_drv (s : State) : (endService s).drv = s.drv := rfl
@[simp] theorem endService_disk (s : State) : (endService s).disk = s.disk := rfl
@[simp] theorem endService_hostEvents (s : State) : (endService s).hostEvents = s.hostEvents := rfl
@[simp] theorem endService_reads (s : State) : (endService s).reads = s.reads := rfl
@[simp] theorem endService_storeAnswers (s : State) : (endService s).storeAnswers = s.storeAnswers := rfl
@[simp] theorem endService_storeReqs (s : State) : (endService s).storeReqs = s.storeReqs := rfl
@[simp] theorem endService_storeStuck (s : State) : (endService s).storeStuck = s.storeStuck := rfl

/-! ### finishRead -/

@[simp] theorem finishRead_hold (v : Byte) (s : State) : (finishRead v s).hold = s.hold := rfl
@[simp] theorem finishRead_tf (v : Byte) (s : State) : (finishRead v s).tf = s.tf := rfl
@[simp] theorem finishRead_sel (v : Byte) (s : State) : (finishRead v s).sel = s.sel := rfl
@[simp] theorem finishRead_pending (v : Byte) (s : State) : (finishRead v s).pending = s.pending := rfl
@[simp] theorem finishRead_rerun (v : Byte) (s : State) : (finishRead v s).rerun = s.rerun := rfl
@[simp] theorem finishRead_status (v : Byte) (s : State) : (finishRead v s).status = s.status := rfl
@[simp] theorem finishRead_viol (v : Byte) (s : State) : (finishRead v s).viol = s.viol := rfl
@[simp] theorem finishRead_overrun (v : Byte) (s : State) : (finishRead v s).overrun = s.overrun := rfl
@[simp] theorem finishRead_excl (v : Byte) (s : State) : (finishRead v s).excl = s.excl := rfl
@[simp] theorem finishRead_cur (v : Byte) (s : State) : (finishRead v s).cur = s.cur := rfl
@[simp] theorem finishRead_fifo (v : Byte) (s : State) : (finishRead v s).fifo = s.fifo := rfl
@[simp] theorem finishRead_dstate (v : Byte) (s : State) : (finishRead v s).dstate = s.dstate := rfl
@[simp] theorem finishRead_xstep (v : Byte) (s : State) : (finishRead v s).xstep = s.xstep := rfl
@[simp] theorem finishRead_xcmd (v : Byte) (s : State) : (finishRead v s).xcmd = s.xcmd := rfl
@[simp] theorem finishRead_xdrv (v : Byte) (s : State) : (finishRead v s).xdrv = s.xdrv := rfl
@[simp] theorem finishRead_capOff (v : Byte) (s : State) : (finishRead v s).capOff = s.capOff := rfl
@[simp] theorem finishRead_capData (v : Byte) (s : State) : (finishRead v s).capData = s.capData := rfl
@[simp] theorem finishRead_capDir (v : Byte) (s : State) : (finishRead v s).capDir = s.capDir := rfl
@[simp] theorem finishRead_wait (v : Byte) (s : State) : (finishRead v s).wait = false := rfl
@[simp] theorem finishRead_dbdir (v : Byte) (s : State) : (finishRead v s).dbdir = .input := rfl
@[simp] theorem finishRead_drv (v : Byte) (s : State) : (finishRead v s).drv = s.drv := rfl
@[simp] theorem finishRead_disk (v : Byte) (s : State) : (finishRead v s).disk = s.disk := rfl
@[simp] theorem finishRead_hostEvents (v : Byte) (s : State) : (finishRead v s).hostEvents = s.hostEvents := rfl
@[simp] theorem finishRead_reads (v : Byte) (s : State) : (finishRead v s).reads = s.reads ++ [v] := rfl
@[simp] theorem finishRead_storeAnswers (v : Byte) (s : State) : (finishRead v s).storeAnswers = s.storeAnswers := rfl
@[simp] theorem finishRead_storeReqs (v : Byte) (s : State) : (finishRead v s).storeReqs = s.storeReqs := rfl
@[simp] theorem finishRead_storeStuck (v : Byte) (s : State) : (finishRead v s).storeStuck = s.storeStuck := rfl

/-! ### finish -/

@[simp] theorem finish_hold (s : State) : (finish s).hold = s.hold := rfl
@[simp] theorem finish_tf (s : State) : (finish s).tf = s.tf := rfl
@[simp] theorem finish_sel (s : State) : (finish s).sel = s.sel := rfl
@[simp] theorem finish_pending (s : State) : (finish s).pending = if s.rerun then s.pending else false := rfl
@[simp] theorem finish_rerun (s : State) : (finish s).rerun = false := rfl
@[simp] theorem finish_status (s : State) : (finish s).status = s.status := rfl
@[simp] theorem finish_viol (s : State) : (finish s).viol = s.viol := rfl
@[simp] theorem finish_overrun (s : State) : (finish s).overrun = s.overrun := rfl
@[simp] theorem finish_excl (s : State) : (finish s).excl = s.excl := rfl
@[simp] theorem finish_cur (s : State) : (finish s).cur = s.cur := rfl
@[simp] theorem finish_fifo (s : State) : (finish s).fifo = s.fifo := rfl
@[simp] theorem finish_dstate (s : State) : (finish s).dstate = .idle := rfl
@[simp] theorem finish_xstep (s : State) : (finish s).xstep = s.xstep := rfl
@[simp] theorem finish_xcmd (s : State) : (finish s).xcmd = s.xcmd := rfl
@[simp] theorem finish_xdrv (s : State) : (finish s).xdrv = s.xdrv := rfl
@[simp] theorem finish_capOff (s : State) : (finish s).capOff = s.capOff := rfl
@[simp] theorem finish_capData (s : State) : (finish s).capData = s.capData := rfl
@[simp] theorem finish_capDir (s : State) : (finish s).capDir = s.capDir := rfl
@[simp] theorem finish_wait (s : State) : (finish s).wait = s.wait := rfl
@[simp] theorem finish_dbdir (s : State) : (finish s).dbdir = s.dbdir := rfl
@[simp] theorem finish_drv (s : State) : (finish s).drv = s.drv := rfl
@[simp] theorem finish_disk (s : State) : (finish s).disk = s.disk := rfl
@[simp] theorem finish_hostEvents (s : State) : (finish s).hostEvents = s.hostEvents := rfl
@[simp] theorem finish_reads (s : State) : (finish s).reads = s.reads := rfl
@[simp] theorem finish_storeAnswers (s : State) : (finish s).storeAnswers = s.storeAnswers := rfl
@[simp] theorem finish_storeReqs (s : State) : (finish s).storeReqs = s.storeReqs := rfl
@[simp] theorem finish_storeStuck (s : State) : (finish s).storeStuck = s.storeStuck := rfl

/-! ### dispatchStep -/

@[simp] theorem dispatchStep_hold (s : State) : (dispatchStep s).hold = s.hold := rfl
@[simp] theorem dispatchStep_tf (s : State) : (dispatchStep s).tf = s.tf := rfl
@[simp] theorem dispatchStep_sel (s : State) : (dispatchStep s).sel = s.sel := rfl
@[simp] theorem dispatchStep_pending (s : State) : (dispatchStep s).pending = s.pending := rfl
@[simp] theorem dispatchStep_rerun (s : State) : (dispatchStep s).rerun = s.rerun := rfl
@[simp] theorem dispatchStep_status (s : State) : (dispatchStep s).status = s.status := rfl
@[simp] theorem dispatchStep_viol (s : State) : (dispatchStep s).viol = s.viol := rfl
@[simp] theorem dispatchStep_overrun (s : State) : (dispatchStep s).overrun = s.overrun := rfl
@[simp] theorem dispatchStep_excl (s : State) : (dispatchStep s).excl = s.excl := rfl
@[simp] theorem dispatchStep_cur (s : State) : (dispatchStep s).cur = s.cur := rfl
@[simp] theorem dispatchStep_fifo (s : State) : (dispatchStep s).fifo = s.fifo := rfl
@[simp] theorem dispatchStep_dstate (s : State) : (dispatchStep s).dstate = .executing := rfl
@[simp] theorem dispatchStep_xstep (s : State) : (dispatchStep s).xstep = .s3 := rfl
@[simp] theorem dispatchStep_xcmd (s : State) : (dispatchStep s).xcmd = s.xcmd := rfl
@[simp] theorem dispatchStep_xdrv (s : State) : (dispatchStep s).xdrv = s.xdrv := rfl
@[simp] theorem dispatchStep_capOff (s : State) : (dispatchStep s).capOff = s.capOff := rfl
@[simp] theorem dispatchStep_capData (s : State) : (dispatchStep s).capData = s.capData := rfl
@[simp] theorem dispatchStep_capDir (s : State) : (dispatchStep s).capDir = s.capDir := rfl
@[simp] theorem dispatchStep_wait (s : State) : (dispatchStep s).wait = s.wait := rfl
@[simp] theorem dispatchStep_dbdir (s : State) : (dispatchStep s).dbdir = s.dbdir := rfl
@[simp] theorem dispatchStep_drv (s : State) : (dispatchStep s).drv = s.drv := rfl
@[simp] theorem dispatchStep_disk (s : State) : (dispatchStep s).disk = s.disk := rfl
@[simp] theorem dispatchStep_hostEvents (s : State) : (dispatchStep s).hostEvents = s.hostEvents := rfl
@[simp] theorem dispatchStep_reads (s : State) : (dispatchStep s).reads = s.reads := rfl
@[simp] theorem dispatchStep_storeAnswers (s : State) : (dispatchStep s).storeAnswers = s.storeAnswers := rfl
@[simp] theorem dispatchStep_storeReqs (s : State) : (dispatchStep s).storeReqs = s.storeReqs := rfl
@[simp] theorem dispatchStep_storeStuck (s : State) : (dispatchStep s).storeStuck = s.storeStuck := rfl

/-! ### decodeTaskFile -/

@[simp] theorem decodeTaskFile_hold (s : State) : (decodeTaskFile s).hold = s.hold := rfl
@[simp] theorem decodeTaskFile_tf (s : State) : (decodeTaskFile s).tf = s.tf := rfl
@[simp] theorem decodeTaskFile_sel (s : State) : (decodeTaskFile s).sel = s.sel := rfl
@[simp] theorem decodeTaskFile_pending (s : State) : (decodeTaskFile s).pending = s.pending := rfl
@[simp] theorem decodeTaskFile_rerun (s : State) : (decodeTaskFile s).rerun = s.rerun := rfl
@[simp] theorem decodeTaskFile_status (s : State) : (decodeTaskFile s).status = s.status := rfl
@[simp] theorem decodeTaskFile_viol (s : State) : (decodeTaskFile s).viol = s.viol := rfl
@[simp] theorem decodeTaskFile_overrun (s : State) : (decodeTaskFile s).overrun = s.overrun := rfl
@[simp] theorem decodeTaskFile_excl (s : State) : (decodeTaskFile s).excl = s.excl := rfl
@[simp] theorem decodeTaskFile_cur (s : State) : (decodeTaskFile s).cur = s.cur := rfl
@[simp] theorem decodeTaskFile_fifo (s : State) : (decodeTaskFile s).fifo = s.fifo := rfl
@[simp] theorem decodeTaskFile_dstate (s : State) : (decodeTaskFile s).dstate = s.dstate := rfl
@[simp] theorem decodeTaskFile_xstep (s : State) : (decodeTaskFile s).xstep = s.xstep := rfl
@[simp] theorem decodeTaskFile_xcmd (s : State) : (decodeTaskFile s).xcmd = s.tf.opcode := rfl
@[simp] theorem decodeTaskFile_xdrv (s : State) : (decodeTaskFile s).xdrv = s.sel := rfl
@[simp] theorem decodeTaskFile_capOff (s : State) : (decodeTaskFile s).capOff = s.capOff := rfl
@[simp] theorem decodeTaskFile_capData (s : State) : (decodeTaskFile s).capData = s.capData := rfl
@[simp] theorem decodeTaskFile_capDir (s : State) : (decodeTaskFile s).capDir = s.capDir := rfl
@[simp] theorem decodeTaskFile_wait (s : State) : (decodeTaskFile s).wait = s.wait := rfl
@[simp] theorem decodeTaskFile_dbdir (s : State) : (decodeTaskFile s).dbdir = s.dbdir := rfl
@[simp] theorem decodeTaskFile_drv (s : State) : (decodeTaskFile s).drv = s.drv.set s.sel ((s.drv.get s.sel).loadWorking s.tf) := rfl
@[simp] theorem decodeTaskFile_disk (s : State) : (decodeTaskFile s).disk = s.disk := rfl
@[simp] theorem decodeTaskFile_hostEvents (s : State) : (decodeTaskFile s).hostEvents = s.hostEvents := rfl
@[simp] theorem decodeTaskFile_reads (s : State) : (decodeTaskFile s).reads = s.reads := rfl
@[simp] theorem decodeTaskFile_storeAnswers (s : State) : (decodeTaskFile s).storeAnswers = s.storeAnswers := rfl
@[simp] theorem decodeTaskFile_storeReqs (s : State) : (decodeTaskFile s).storeReqs = s.storeReqs := rfl
@[simp] theorem decodeTaskFile_storeStuck (s : State) : (decodeTaskFile s).storeStuck = s.storeStuck := rfl

/-! ### commitParameterBurst -/

@[simp] theorem commitParameterBurst_hold (s : State) : (commitParameterBurst s).hold = s.hold := rfl
@[simp] theorem commitParameterBurst_tf (s : State) : (commitParameterBurst s).tf = s.tf.commitParameters s.hold := rfl
@[simp] theorem commitParameterBurst_sel (s : State) : (commitParameterBurst s).sel = s.sel := rfl
@[simp] theorem commitParameterBurst_pending (s : State) : (commitParameterBurst s).pending = s.pending := rfl
@[simp] theorem commitParameterBurst_rerun (s : State) : (commitParameterBurst s).rerun = s.rerun := rfl
@[simp] theorem commitParameterBurst_status (s : State) : (commitParameterBurst s).status = setPattern stPar s.status := rfl
@[simp] theorem commitParameterBurst_viol (s : State) : (commitParameterBurst s).viol = s.viol := rfl
@[simp] theorem commitParameterBurst_overrun (s : State) : (commitParameterBurst s).overrun = s.overrun := rfl
@[simp] theorem commitParameterBurst_excl (s : State) : (commitParameterBurst s).excl = s.excl := rfl
@[simp] theorem commitParameterBurst_cur (s : State) : (commitParameterBurst s).cur = s.cur := rfl
@[simp] theorem commitParameterBurst_fifo (s : State) : (commitParameterBurst s).fifo = s.fifo := rfl
@[simp] theorem commitParameterBurst_dstate (s : State) : (commitParameterBurst s).dstate = s.dstate := rfl
@[simp] theorem commitParameterBurst_xstep (s : State) : (commitParameterBurst s).xstep = s.xstep := rfl
@[simp] theorem commitParameterBurst_xcmd (s : State) : (commitParameterBurst s).xcmd = s.xcmd := rfl
@[simp] theorem commitParameterBurst_xdrv (s : State) : (commitParameterBurst s).xdrv = s.xdrv := rfl
@[simp] theorem commitParameterBurst_capOff (s : State) : (commitParameterBurst s).capOff = s.capOff := rfl
@[simp] theorem commitParameterBurst_capData (s : State) : (commitParameterBurst s).capData = s.capData := rfl
@[simp] theorem commitParameterBurst_capDir (s : State) : (commitParameterBurst s).capDir = s.capDir := rfl
@[simp] theorem commitParameterBurst_wait (s : State) : (commitParameterBurst s).wait = s.wait := rfl
@[simp] theorem commitParameterBurst_dbdir (s : State) : (commitParameterBurst s).dbdir = s.dbdir := rfl
@[simp] theorem commitParameterBurst_drv (s : State) : (commitParameterBurst s).drv = s.drv := rfl
@[simp] theorem commitParameterBurst_disk (s : State) : (commitParameterBurst s).disk = s.disk := rfl
@[simp] theorem commitParameterBurst_hostEvents (s : State) : (commitParameterBurst s).hostEvents = s.hostEvents := rfl
@[simp] theorem commitParameterBurst_reads (s : State) : (commitParameterBurst s).reads = s.reads := rfl
@[simp] theorem commitParameterBurst_storeAnswers (s : State) : (commitParameterBurst s).storeAnswers = s.storeAnswers := rfl
@[simp] theorem commitParameterBurst_storeReqs (s : State) : (commitParameterBurst s).storeReqs = s.storeReqs := rfl
@[simp] theorem commitParameterBurst_storeStuck (s : State) : (commitParameterBurst s).storeStuck = s.storeStuck := rfl

/-! ### commandBurst -/

@[simp] theorem commandBurst_hold (s : State) : (commandBurst s).hold = s.hold := rfl
@[simp] theorem commandBurst_tf (s : State) : (commandBurst s).tf = s.tf.commitCommand s.hold := rfl
@[simp] theorem commandBurst_pending (s : State) : (commandBurst s).pending = s.pending := rfl
@[simp] theorem commandBurst_rerun (s : State) : (commandBurst s).rerun = s.rerun := rfl
@[simp] theorem commandBurst_status (s : State) : (commandBurst s).status = setPattern stCmd s.status := rfl
@[simp] theorem commandBurst_viol (s : State) : (commandBurst s).viol = s.viol := rfl
@[simp] theorem commandBurst_overrun (s : State) : (commandBurst s).overrun = s.overrun := rfl
@[simp] theorem commandBurst_excl (s : State) : (commandBurst s).excl = s.excl := rfl
@[simp] theorem commandBurst_cur (s : State) : (commandBurst s).cur = s.cur := rfl
@[simp] theorem commandBurst_fifo (s : State) : (commandBurst s).fifo = s.fifo := rfl
@[simp] theorem commandBurst_dstate (s : State) : (commandBurst s).dstate = s.dstate := rfl
@[simp] theorem commandBurst_xstep (s : State) : (commandBurst s).xstep = s.xstep := rfl
@[simp] theorem commandBurst_xcmd (s : State) : (commandBurst s).xcmd = s.xcmd := rfl
@[simp] theorem commandBurst_xdrv (s : State) : (commandBurst s).xdrv = s.xdrv := rfl
@[simp] theorem commandBurst_capOff (s : State) : (commandBurst s).capOff = s.capOff := rfl
@[simp] theorem commandBurst_capData (s : State) : (commandBurst s).capData = s.capData := rfl
@[simp] theorem commandBurst_capDir (s : State) : (commandBurst s).capDir = s.capDir := rfl
@[simp] theorem commandBurst_wait (s : State) : (commandBurst s).wait = s.wait := rfl
@[simp] theorem commandBurst_dbdir (s : State) : (commandBurst s).dbdir = s.dbdir := rfl
@[simp] theorem commandBurst_drv (s : State) : (commandBurst s).drv = s.drv := rfl
@[simp] theorem commandBurst_disk (s : State) : (commandBurst s).disk = s.disk := rfl
@[simp] theorem commandBurst_hostEvents (s : State) : (commandBurst s).hostEvents = s.hostEvents := rfl
@[simp] theorem commandBurst_reads (s : State) : (commandBurst s).reads = s.reads := rfl
@[simp] theorem commandBurst_storeAnswers (s : State) : (commandBurst s).storeAnswers = s.storeAnswers := rfl
@[simp] theorem commandBurst_storeReqs (s : State) : (commandBurst s).storeReqs = s.storeReqs := rfl
@[simp] theorem commandBurst_storeStuck (s : State) : (commandBurst s).storeStuck = s.storeStuck := rfl

/-! ### storeClose -/

@[simp] theorem storeClose_hold (d : Slot) (s : State) : (storeClose d s).hold = s.hold := rfl
@[simp] theorem storeClose_tf (d : Slot) (s : State) : (storeClose d s).tf = s.tf := rfl
@[simp] theorem storeClose_sel (d : Slot) (s : State) : (storeClose d s).sel = s.sel := rfl
@[simp] theorem storeClose_pending (d : Slot) (s : State) : (storeClose d s).pending = s.pending := rfl
@[simp] theorem storeClose_rerun (d : Slot) (s : State) : (storeClose d s).rerun = s.rerun := rfl
@[simp] theorem storeClose_status (d : Slot) (s : State) : (storeClose d s).status = s.status := rfl
@[simp] theorem storeClose_viol (d : Slot) (s : State) : (storeClose d s).viol = s.viol := rfl
@[simp] theorem storeClose_overrun (d : Slot) (s : State) : (storeClose d s).overrun = s.overrun := rfl
@[simp] theorem storeClose_excl (d : Slot) (s : State) : (storeClose d s).excl = s.excl := rfl
@[simp] theorem storeClose_cur (d : Slot) (s : State) : (storeClose d s).cur = s.cur := rfl
@[simp] theorem storeClose_fifo (d : Slot) (s : State) : (storeClose d s).fifo = s.fifo := rfl
@[simp] theorem storeClose_dstate (d : Slot) (s : State) : (storeClose d s).dstate = s.dstate := rfl
@[simp] theorem storeClose_xstep (d : Slot) (s : State) : (storeClose d s).xstep = s.xstep := rfl
@[simp] theorem storeClose_xcmd (d : Slot) (s : State) : (storeClose d s).xcmd = s.xcmd := rfl
@[simp] theorem storeClose_xdrv (d : Slot) (s : State) : (storeClose d s).xdrv = s.xdrv := rfl
@[simp] theorem storeClose_capOff (d : Slot) (s : State) : (storeClose d s).capOff = s.capOff := rfl
@[simp] theorem storeClose_capData (d : Slot) (s : State) : (storeClose d s).capData = s.capData := rfl
@[simp] theorem storeClose_capDir (d : Slot) (s : State) : (storeClose d s).capDir = s.capDir := rfl
@[simp] theorem storeClose_wait (d : Slot) (s : State) : (storeClose d s).wait = s.wait := rfl
@[simp] theorem storeClose_dbdir (d : Slot) (s : State) : (storeClose d s).dbdir = s.dbdir := rfl
@[simp] theorem storeClose_drv (d : Slot) (s : State) : (storeClose d s).drv = s.drv := rfl
@[simp] theorem storeClose_disk (d : Slot) (s : State) : (storeClose d s).disk = s.disk.set d { s.disk.get d with isOpen := false } := rfl
@[simp] theorem storeClose_hostEvents (d : Slot) (s : State) : (storeClose d s).hostEvents = s.hostEvents := rfl
@[simp] theorem storeClose_reads (d : Slot) (s : State) : (storeClose d s).reads = s.reads := rfl
@[simp] theorem storeClose_storeAnswers (d : Slot) (s : State) : (storeClose d s).storeAnswers = s.storeAnswers := rfl
@[simp] theorem storeClose_storeReqs (d : Slot) (s : State) : (storeClose d s).storeReqs = s.storeReqs + 1 := rfl
@[simp] theorem storeClose_storeStuck (d : Slot) (s : State) : (storeClose d s).storeStuck = s.storeStuck := rfl

/-! ### storeOpen -/

@[simp] theorem storeOpen_hold (d : Slot) (s : State) : (storeOpen d s).hold = s.hold := rfl
@[simp] theorem storeOpen_tf (d : Slot) (s : State) : (storeOpen d s).tf = s.tf := rfl
@[simp] theorem storeOpen_sel (d : Slot) (s : State) : (storeOpen d s).sel = s.sel := rfl
@[simp] theorem storeOpen_pending (d : Slot) (s : State) : (storeOpen d s).pending = s.pending := rfl
@[simp] theorem storeOpen_rerun (d : Slot) (s : State) : (storeOpen d s).rerun = s.rerun := rfl
@[simp] theorem storeOpen_status (d : Slot) (s : State) : (storeOpen d s).status = s.status := rfl
@[simp] theorem storeOpen_viol (d : Slot) (s : State) : (storeOpen d s).viol = s.viol := rfl
@[simp] theorem storeOpen_overrun (d : Slot) (s : State) : (storeOpen d s).overrun = s.overrun := rfl
@[simp] theorem storeOpen_excl (d : Slot) (s : State) : (storeOpen d s).excl = s.excl := rfl
@[simp] theorem storeOpen_cur (d : Slot) (s : State) : (storeOpen d s).cur = s.cur := rfl
@[simp] theorem storeOpen_fifo (d : Slot) (s : State) : (storeOpen d s).fifo = s.fifo := rfl
@[simp] theorem storeOpen_dstate (d : Slot) (s : State) : (storeOpen d s).dstate = s.dstate := rfl
@[simp] theorem storeOpen_xstep (d : Slot) (s : State) : (storeOpen d s).xstep = s.xstep := rfl
@[simp] theorem storeOpen_xcmd (d : Slot) (s : State) : (storeOpen d s).xcmd = s.xcmd := rfl
@[simp] theorem storeOpen_xdrv (d : Slot) (s : State) : (storeOpen d s).xdrv = s.xdrv := rfl
@[simp] theorem storeOpen_capOff (d : Slot) (s : State) : (storeOpen d s).capOff = s.capOff := rfl
@[simp] theorem storeOpen_capData (d : Slot) (s : State) : (storeOpen d s).capData = s.capData := rfl
@[simp] theorem storeOpen_capDir (d : Slot) (s : State) : (storeOpen d s).capDir = s.capDir := rfl
@[simp] theorem storeOpen_wait (d : Slot) (s : State) : (storeOpen d s).wait = s.wait := rfl
@[simp] theorem storeOpen_dbdir (d : Slot) (s : State) : (storeOpen d s).dbdir = s.dbdir := rfl
@[simp] theorem storeOpen_drv (d : Slot) (s : State) : (storeOpen d s).drv = s.drv := rfl
@[simp] theorem storeOpen_hostEvents (d : Slot) (s : State) : (storeOpen d s).hostEvents = s.hostEvents := rfl
@[simp] theorem storeOpen_reads (d : Slot) (s : State) : (storeOpen d s).reads = s.reads := rfl
@[simp] theorem storeOpen_storeAnswers (d : Slot) (s : State) : (storeOpen d s).storeAnswers = s.storeAnswers.tail := rfl
@[simp] theorem storeOpen_storeReqs (d : Slot) (s : State) : (storeOpen d s).storeReqs = s.storeReqs + 1 := rfl
@[simp] theorem storeOpen_storeStuck (d : Slot) (s : State) : (storeOpen d s).storeStuck = s.storeStuck := rfl

/-! ### storeSeek -/

@[simp] theorem storeSeek_hold (d : Slot) (off : Nat) (s : State) : (storeSeek d off s).hold = s.hold := rfl
@[simp] theorem storeSeek_tf (d : Slot) (off : Nat) (s : State) : (storeSeek d off s).tf = s.tf := rfl
@[simp] theorem storeSeek_sel (d : Slot) (off : Nat) (s : State) : (storeSeek d off s).sel = s.sel := rfl
@[simp] theorem storeSeek_pending (d : Slot) (off : Nat) (s : State) : (storeSeek d off s).pending = s.pending := rfl
@[simp] theorem storeSeek_rerun (d : Slot) (off : Nat) (s : State) : (storeSeek d off s).rerun = s.rerun := rfl
@[simp] theorem storeSeek_status (d : Slot) (off : Nat) (s : State) : (storeSeek d off s).status = s.status := rfl
@[simp] theorem storeSeek_viol (d : Slot) (off : Nat) (s : State) : (storeSeek d off s).viol = s.viol := rfl
@[simp] theorem storeSeek_overrun (d : Slot) (off : Nat) (s : State) : (storeSeek d off s).overrun = s.overrun := rfl
@[simp] theorem storeSeek_excl (d : Slot) (off : Nat) (s : State) : (storeSeek d off s).excl = s.excl := rfl
@[simp] theorem storeSeek_cur (d : Slot) (off : Nat) (s : State) : (storeSeek d off s).cur = s.cur := rfl
@[simp] theorem storeSeek_fifo (d : Slot) (off : Nat) (s : State) : (storeSeek d off s).fifo = s.fifo := rfl
@[simp] theorem storeSeek_dstate (d : Slot) (off : Nat) (s : State) : (storeSeek d off s).dstate = s.dstate := rfl
@[simp] theorem storeSeek_xstep (d : Slot) (off : Nat) (s : State) : (storeSeek d off s).xstep = s.xstep := rfl
@[simp] theorem storeSeek_xcmd (d : Slot) (off : Nat) (s : State) : (storeSeek d off s).xcmd = s.xcmd := rfl
@[simp] theorem storeSeek_xdrv (d : Slot) (off : Nat) (s : State) : (storeSeek d off s).xdrv = s.xdrv := rfl
@[simp] theorem storeSeek_capOff (d : Slot) (off : Nat) (s : State) : (storeSeek d off s).capOff = s.capOff := rfl
@[simp] theorem storeSeek_capData (d : Slot) (off : Nat) (s : State) : (storeSeek d off s).capData = s.capData := rfl
@[simp] theorem storeSeek_capDir (d : Slot) (off : Nat) (s : State) : (storeSeek d off s).capDir = s.capDir := rfl
@[simp] theorem storeSeek_wait (d : Slot) (off : Nat) (s : State) : (storeSeek d off s).wait = s.wait := rfl
@[simp] theorem storeSeek_dbdir (d : Slot) (off : Nat) (s : State) : (storeSeek d off s).dbdir = s.dbdir := rfl
@[simp] theorem storeSeek_drv (d : Slot) (off : Nat) (s : State) : (storeSeek d off s).drv = s.drv := rfl
@[simp] theorem storeSeek_hostEvents (d : Slot) (off : Nat) (s : State) : (storeSeek d off s).hostEvents = s.hostEvents := rfl
@[simp] theorem storeSeek_reads (d : Slot) (off : Nat) (s : State) : (storeSeek d off s).reads = s.reads := rfl
@[simp] theorem storeSeek_storeAnswers (d : Slot) (off : Nat) (s : State) : (storeSeek d off s).storeAnswers = s.storeAnswers := rfl
@[simp] theorem storeSeek_storeReqs (d : Slot) (off : Nat) (s : State) : (storeSeek d off s).storeReqs = s.storeReqs + 1 := rfl
@[simp] theorem storeSeek_storeStuck (d : Slot) (off : Nat) (s : State) : (storeSeek d off s).storeStuck = s.storeStuck := rfl

/-! ### storeRead -/

@[simp] theorem storeRead_hold (d : Slot) (len : Nat) (s : State) : (storeRead d len s).hold = s.hold := rfl
@[simp] theorem storeRead_tf (d : Slot) (len : Nat) (s : State) : (storeRead d len s).tf = s.tf := rfl
@[simp] theorem storeRead_sel (d : Slot) (len : Nat) (s : State) : (storeRead d len s).sel = s.sel := rfl
@[simp] theorem storeRead_pending (d : Slot) (len : Nat) (s : State) : (storeRead d len s).pending = s.pending := rfl
@[simp] theorem storeRead_rerun (d : Slot) (len : Nat) (s : State) : (storeRead d len s).rerun = s.rerun := rfl
@[simp] theorem storeRead_status (d : Slot) (len : Nat) (s : State) : (storeRead d len s).status = s.status := rfl
@[simp] theorem storeRead_viol (d : Slot) (len : Nat) (s : State) : (storeRead d len s).viol = s.viol := rfl
@[simp] theorem storeRead_overrun (d : Slot) (len : Nat) (s : State) : (storeRead d len s).overrun = s.overrun := rfl
@[simp] theorem storeRead_excl (d : Slot) (len : Nat) (s : State) : (storeRead d len s).excl = s.excl := rfl
@[simp] theorem storeRead_cur (d : Slot) (len : Nat) (s : State) : (storeRead d len s).cur = s.cur := rfl
@[simp] theorem storeRead_fifo (d : Slot) (len : Nat) (s : State) : (storeRead d len s).fifo = s.fifo := rfl
@[simp] theorem storeRead_dstate (d : Slot) (len : Nat) (s : State) : (storeRead d len s).dstate = s.dstate := rfl
@[simp] theorem storeRead_xstep (d : Slot) (len : Nat) (s : State) : (storeRead d len s).xstep = s.xstep := rfl
@[simp] theorem storeRead_xcmd (d : Slot) (len : Nat) (s : State) : (storeRead d len s).xcmd = s.xcmd := rfl
@[simp] theorem storeRead_xdrv (d : Slot) (len : Nat) (s : State) : (storeRead d len s).xdrv = s.xdrv := rfl
@[simp] theorem storeRead_capOff (d : Slot) (len : Nat) (s : State) : (storeRead d len s).capOff = s.capOff := rfl
@[simp] theorem storeRead_capData (d : Slot) (len : Nat) (s : State) : (storeRead d len s).capData = s.capData := rfl
@[simp] theorem storeRead_capDir (d : Slot) (len : Nat) (s : State) : (storeRead d len s).capDir = s.capDir := rfl
@[simp] theorem storeRead_wait (d : Slot) (len : Nat) (s : State) : (storeRead d len s).wait = s.wait := rfl
@[simp] theorem storeRead_dbdir (d : Slot) (len : Nat) (s : State) : (storeRead d len s).dbdir = s.dbdir := rfl
@[simp] theorem storeRead_drv (d : Slot) (len : Nat) (s : State) : (storeRead d len s).drv = s.drv := rfl
@[simp] theorem storeRead_hostEvents (d : Slot) (len : Nat) (s : State) : (storeRead d len s).hostEvents = s.hostEvents := rfl
@[simp] theorem storeRead_reads (d : Slot) (len : Nat) (s : State) : (storeRead d len s).reads = s.reads := rfl
@[simp] theorem storeRead_storeAnswers (d : Slot) (len : Nat) (s : State) : (storeRead d len s).storeAnswers = s.storeAnswers.tail := rfl
@[simp] theorem storeRead_storeReqs (d : Slot) (len : Nat) (s : State) : (storeRead d len s).storeReqs = s.storeReqs + 1 := rfl
@[simp] theorem storeRead_storeStuck (d : Slot) (len : Nat) (s : State) : (storeRead d len s).storeStuck = s.storeStuck := rfl

/-! ### storeWrite -/

@[simp] theorem storeWrite_hold (d : Slot) (data : List Byte) (s : State) : (storeWrite d data s).hold = s.hold := rfl
@[simp] theorem storeWrite_tf (d : Slot) (data : List Byte) (s : State) : (storeWrite d data s).tf = s.tf := rfl
@[simp] theorem storeWrite_sel (d : Slot) (data : List Byte) (s : State) : (storeWrite d data s).sel = s.sel := rfl
@[simp] theorem storeWrite_pending (d : Slot) (data : List Byte) (s : State) : (storeWrite d data s).pending = s.pending := rfl
@[simp] theorem storeWrite_rerun (d : Slot) (data : List Byte) (s : State) : (storeWrite d data s).rerun = s.rerun := rfl
@[simp] theorem storeWrite_status (d : Slot) (data : List Byte) (s : State) : (storeWrite d data s).status = s.status := rfl
@[simp] theorem storeWrite_viol (d : Slot) (data : List Byte) (s : State) : (storeWrite d data s).viol = s.viol := rfl
@[simp] theorem storeWrite_overrun (d : Slot) (data : List Byte) (s : State) : (storeWrite d data s).overrun = s.overrun := rfl
@[simp] theorem storeWrite_excl (d : Slot) (data : List Byte) (s : State) : (storeWrite d data s).excl = s.excl := rfl
@[simp] theorem storeWrite_cur (d : Slot) (data : List Byte) (s : State) : (storeWrite d data s).cur = s.cur := rfl
@[simp] theorem storeWrite_fifo (d : Slot) (data : List Byte) (s : State) : (storeWrite d data s).fifo = s.fifo := rfl
@[simp] theorem storeWrite_dstate (d : Slot) (data : List Byte) (s : State) : (storeWrite d data s).dstate = s.dstate := rfl
@[simp] theorem storeWrite_xstep (d : Slot) (data : List Byte) (s : State) : (storeWrite d data s).xstep = s.xstep := rfl
@[simp] theorem storeWrite_xcmd (d : Slot) (data : List Byte) (s : State) : (storeWrite d data s).xcmd = s.xcmd := rfl
@[simp] theorem storeWrite_xdrv (d : Slot) (data : List Byte) (s : State) : (storeWrite d data s).xdrv = s.xdrv := rfl
@[simp] theorem storeWrite_capOff (d : Slot) (data : List Byte) (s : State) : (storeWrite d data s).capOff = s.capOff := rfl
@[simp] theorem storeWrite_capData (d : Slot) (data : List Byte) (s : State) : (storeWrite d data s).capData = s.capData := rfl
@[simp] theorem storeWrite_capDir (d : Slot) (data : List Byte) (s : State) : (storeWrite d data s).capDir = s.capDir := rfl
@[simp] theorem storeWrite_wait (d : Slot) (data : List Byte) (s : State) : (storeWrite d data s).wait = s.wait := rfl
@[simp] theorem storeWrite_dbdir (d : Slot) (data : List Byte) (s : State) : (storeWrite d data s).dbdir = s.dbdir := rfl
@[simp] theorem storeWrite_drv (d : Slot) (data : List Byte) (s : State) : (storeWrite d data s).drv = s.drv := rfl
@[simp] theorem storeWrite_hostEvents (d : Slot) (data : List Byte) (s : State) : (storeWrite d data s).hostEvents = s.hostEvents := rfl
@[simp] theorem storeWrite_reads (d : Slot) (data : List Byte) (s : State) : (storeWrite d data s).reads = s.reads := rfl
@[simp] theorem storeWrite_storeAnswers (d : Slot) (data : List Byte) (s : State) : (storeWrite d data s).storeAnswers = s.storeAnswers.tail := rfl
@[simp] theorem storeWrite_storeReqs (d : Slot) (data : List Byte) (s : State) : (storeWrite d data s).storeReqs = s.storeReqs + 1 := rfl
@[simp] theorem storeWrite_storeStuck (d : Slot) (data : List Byte) (s : State) : (storeWrite d data s).storeStuck = s.storeStuck := rfl

/-! ### reinitControl -/

@[simp] theorem reinitControl_hold (s : State) : (reinitControl s).hold = ⟨0, 0, 0, 0⟩ := rfl
@[simp] theorem reinitControl_tf (s : State) : (reinitControl s).tf = TaskFile.zero := rfl
@[simp] theorem reinitControl_sel (s : State) : (reinitControl s).sel = 0 := rfl
@[simp] theorem reinitControl_pending (s : State) : (reinitControl s).pending = false := rfl
@[simp] theorem reinitControl_rerun (s : State) : (reinitControl s).rerun = false := rfl
@[simp] theorem reinitControl_status (s : State) : (reinitControl s).status = 0 := rfl
@[simp] theorem reinitControl_viol (s : State) : (reinitControl s).viol = s.viol := rfl
@[simp] theorem reinitControl_overrun (s : State) : (reinitControl s).overrun = s.overrun := rfl
@[simp] theorem reinitControl_excl (s : State) : (reinitControl s).excl = s.excl := rfl
@[simp] theorem reinitControl_cur (s : State) : (reinitControl s).cur = s.cur := rfl
@[simp] theorem reinitControl_fifo (s : State) : (reinitControl s).fifo = s.fifo := rfl
@[simp] theorem reinitControl_dstate (s : State) : (reinitControl s).dstate = s.dstate := rfl
@[simp] theorem reinitControl_xstep (s : State) : (reinitControl s).xstep = s.xstep := rfl
@[simp] theorem reinitControl_xcmd (s : State) : (reinitControl s).xcmd = s.xcmd := rfl
@[simp] theorem reinitControl_xdrv (s : State) : (reinitControl s).xdrv = s.xdrv := rfl
@[simp] theorem reinitControl_capOff (s : State) : (reinitControl s).capOff = s.capOff := rfl
@[simp] theorem reinitControl_capData (s : State) : (reinitControl s).capData = s.capData := rfl
@[simp] theorem reinitControl_capDir (s : State) : (reinitControl s).capDir = s.capDir := rfl
@[simp] theorem reinitControl_wait (s : State) : (reinitControl s).wait = s.wait := rfl
@[simp] theorem reinitControl_dbdir (s : State) : (reinitControl s).dbdir = s.dbdir := rfl
@[simp] theorem reinitControl_disk (s : State) : (reinitControl s).disk = s.disk := rfl
@[simp] theorem reinitControl_hostEvents (s : State) : (reinitControl s).hostEvents = s.hostEvents := rfl
@[simp] theorem reinitControl_reads (s : State) : (reinitControl s).reads = s.reads := rfl
@[simp] theorem reinitControl_storeAnswers (s : State) : (reinitControl s).storeAnswers = s.storeAnswers := rfl
@[simp] theorem reinitControl_storeReqs (s : State) : (reinitControl s).storeReqs = s.storeReqs := rfl
@[simp] theorem reinitControl_storeStuck (s : State) : (reinitControl s).storeStuck = s.storeStuck := rfl

/-! ### critical -/

@[simp] theorem critical_hold (g : State → State) (s : State) :
    (critical g s).hold = (g { s with excl := true }).hold := rfl
@[simp] theorem critical_tf (g : State → State) (s : State) :
    (critical g s).tf = (g { s with excl := true }).tf := rfl
@[simp] theorem critical_sel (g : State → State) (s : State) :
    (critical g s).sel = (g { s with excl := true }).sel := rfl
@[simp] theorem critical_pending (g : State → State) (s : State) :
    (critical g s).pending = (g { s with excl := true }).pending := rfl
@[simp] theorem critical_rerun (g : State → State) (s : State) :
    (critical g s).rerun = (g { s with excl := true }).rerun := rfl
@[simp] theorem critical_status (g : State → State) (s : State) :
    (critical g s).status = (g { s with excl := true }).status := rfl
@[simp] theorem critical_viol (g : State → State) (s : State) :
    (critical g s).viol = (g { s with excl := true }).viol := rfl
@[simp] theorem critical_overrun (g : State → State) (s : State) :
    (critical g s).overrun = (g { s with excl := true }).overrun := rfl
@[simp] theorem critical_excl (g : State → State) (s : State) : (critical g s).excl = false := rfl
@[simp] theorem critical_cur (g : State → State) (s : State) :
    (critical g s).cur = (g { s with excl := true }).cur := rfl
@[simp] theorem critical_fifo (g : State → State) (s : State) :
    (critical g s).fifo = (g { s with excl := true }).fifo := rfl
@[simp] theorem critical_dstate (g : State → State) (s : State) :
    (critical g s).dstate = (g { s with excl := true }).dstate := rfl
@[simp] theorem critical_xstep (g : State → State) (s : State) :
    (critical g s).xstep = (g { s with excl := true }).xstep := rfl
@[simp] theorem critical_xcmd (g : State → State) (s : State) :
    (critical g s).xcmd = (g { s with excl := true }).xcmd := rfl
@[simp] theorem critical_xdrv (g : State → State) (s : State) :
    (critical g s).xdrv = (g { s with excl := true }).xdrv := rfl
@[simp] theorem critical_capOff (g : State → State) (s : State) :
    (critical g s).capOff = (g { s with excl := true }).capOff := rfl
@[simp] theorem critical_capData (g : State → State) (s : State) :
    (critical g s).capData = (g { s with excl := true }).capData := rfl
@[simp] theorem critical_capDir (g : State → State) (s : State) :
    (critical g s).capDir = (g { s with excl := true }).capDir := rfl
@[simp] theorem critical_wait (g : State → State) (s : State) :
    (critical g s).wait = (g { s with excl := true }).wait := rfl
@[simp] theorem critical_dbdir (g : State → State) (s : State) :
    (critical g s).dbdir = (g { s with excl := true }).dbdir := rfl
@[simp] theorem critical_drv (g : State → State) (s : State) :
    (critical g s).drv = (g { s with excl := true }).drv := rfl
@[simp] theorem critical_disk (g : State → State) (s : State) :
    (critical g s).disk = (g { s with excl := true }).disk := rfl
@[simp] theorem critical_hostEvents (g : State → State) (s : State) :
    (critical g s).hostEvents = (g { s with excl := true }).hostEvents := rfl
@[simp] theorem critical_reads (g : State → State) (s : State) :
    (critical g s).reads = (g { s with excl := true }).reads := rfl
@[simp] theorem critical_storeAnswers (g : State → State) (s : State) :
    (critical g s).storeAnswers = (g { s with excl := true }).storeAnswers := rfl
@[simp] theorem critical_storeReqs (g : State → State) (s : State) :
    (critical g s).storeReqs = (g { s with excl := true }).storeReqs := rfl
@[simp] theorem critical_storeStuck (g : State → State) (s : State) :
    (critical g s).storeStuck = (g { s with excl := true }).storeStuck := rfl

end Sys2Proof.Machine
end

