-- ==== Sys2Proof/Laws/Status.lean ====
section
/-! SUPPORT. Laws of STATUS (R16, R17): a pattern write keeps the error bit, an error-bit write keeps the pattern. -/

namespace Sys2Proof.Machine

@[simp] theorem errorBit_setPattern (p st : Byte) : errorBit (setPattern p st) = errorBit st := by
  simp [errorBit, setPattern]

@[simp] theorem errorBit_setErrorBit (st : Byte) : errorBit (setErrorBit st) = true := by
  simp [errorBit, setErrorBit]

@[simp] theorem errorBit_clearErrorBit (st : Byte) : errorBit (clearErrorBit st) = false := by
  simp [errorBit, clearErrorBit]

@[simp] theorem pattern_setPattern (p st : Byte) : pattern (setPattern p st) = pattern p := by
  have h : ∀ (x : Byte) (b : Bool), ((x &&& 0xFE) ||| (BitVec.ofBool b).setWidth 8) &&& 0xFE = x &&& 0xFE := by decide
  have h' : ∀ x : Byte, x &&& 0x01 = (BitVec.ofBool (x.getLsbD 0)).setWidth 8 := by decide
  unfold pattern setPattern
  rw [h', h]

@[simp] theorem pattern_setErrorBit (st : Byte) : pattern (setErrorBit st) = pattern st := by
  revert st
  decide

@[simp] theorem pattern_clearErrorBit (st : Byte) : pattern (clearErrorBit st) = pattern st := by
  revert st
  decide

/-- STATUS is its pattern and its error bit. -/
theorem status_eq_iff (a b : Byte) : a = b ↔ pattern a = pattern b ∧ errorBit a = errorBit b := by
  constructor
  · rintro rfl
    exact ⟨rfl, rfl⟩
  · rintro ⟨hp, he⟩
    have key : ∀ x : Byte, x = pattern x ||| (BitVec.ofBool (errorBit x)).setWidth 8 := by decide
    rw [key a, key b, hp, he]

/-- Legality depends on the pattern alone. -/
theorem statusLegal_congr {a b : Byte} (h : pattern a = pattern b) : statusLegal a = statusLegal b := by
  simp [statusLegal, h]

@[simp] theorem statusLegal_setErrorBit (st : Byte) : statusLegal (setErrorBit st) = statusLegal st :=
  statusLegal_congr (by simp)

@[simp] theorem statusLegal_clearErrorBit (st : Byte) : statusLegal (clearErrorBit st) = statusLegal st :=
  statusLegal_congr (by simp)

/-- A pattern write leaves a legal STATUS when the pattern is one of the six. -/
theorem statusLegal_setPattern {p : Byte} (st : Byte) (h : statusLegal p = true) :
    statusLegal (setPattern p st) = true := by
  rw [statusLegal_congr (pattern_setPattern p st), h]

end Sys2Proof.Machine
end

