-- ==== Sys2Proof/Laws/Ops.lean ====
section
/-! SUPPORT. One law per shared operation: what it can do, said once, so that proofs cite it and do not unfold it. -/

namespace Sys2Proof.Machine

/-! ## FIFO bytes (R131 to R138) -/

/-- A FIFO byte depends on the byte list alone. -/
theorem fifoByte_congr {s t : State} (h : t.fifo = s.fifo) (i : Nat) : t.fifoByte i = s.fifoByte i := by
  simp [State.fifoByte, h]

/-- What BulkIn leaves at every index (R137). -/
theorem fifoByte_bulkIn (data : List Byte) (s : State) (i : Nat) :
    (bulkIn data s).fifoByte i = if h : i < data.length then data[i] else s.fifoByte i := by
  by_cases h : i < data.length
  · simp [State.fifoByte, Memory.read?_writeRun, h]
  · simp [State.fifoByte, Memory.read?_writeRun, h]

@[simp] theorem length_bulkOut (n : Nat) (s : State) : (bulkOut n s).length = n := by simp [bulkOut]

theorem getElem_bulkOut (n : Nat) (s : State) (k : Nat) (h : k < (bulkOut n s).length) :
    (bulkOut n s)[k] = s.fifoByte k := by simp [bulkOut]

/-- BulkOut reads the byte list alone (R138). -/
theorem bulkOut_congr {s t : State} (h : t.fifo = s.fifo) (n : Nat) : bulkOut n t = bulkOut n s := by
  simp [bulkOut, fifoByte_congr h]

/-- `read_next` below capacity (R132). -/
theorem fifoReadNext_below {s : State} (h : s.cur < Config.fifoCap) :
    fifoNextByte s = s.fifoByte s.cur ∧ fifoReadNext s = { s with cur := s.cur + 1 } := by
  simp [fifoNextByte, fifoReadNext, h]

/-- `read_next` at capacity (R136). -/
theorem fifoReadNext_full {s : State} (h : ¬ s.cur < Config.fifoCap) :
    fifoNextByte s = Config.fifoOverrunByte s.reads.length ∧ fifoReadNext s = { s with overrun := true } := by
  simp [fifoNextByte, fifoReadNext, h, raise]

/-- `write_next` below capacity (R133). -/
theorem fifoWriteNext_below {s : State} (b : Byte) (h : s.cur < Config.fifoCap) :
    fifoWriteNext b s = { s with fifo := s.fifo.write s.cur b, cur := s.cur + 1 } := by
  simp [fifoWriteNext, h]

/-- `write_next` at capacity (R136). -/
theorem fifoWriteNext_full {s : State} (b : Byte) (h : ¬ s.cur < Config.fifoCap) :
    fifoWriteNext b s = { s with overrun := true } := by
  simp [fifoWriteNext, h, raise]

/-! ## Reporting a condition (R190) -/

@[simp] theorem raise_geometryError (s : State) : raise .geometryError s = s.setError := rfl
@[simp] theorem raise_shortIO (s : State) : raise .shortIO s = s.setError := rfl
@[simp] theorem raise_protocolViolation (s : State) : raise .protocolViolation s = { s with viol := true } := rfl
@[simp] theorem raise_unknownCommand (s : State) : raise .unknownCommand s = s := rfl
@[simp] theorem raise_fifoOverrun (s : State) : raise .fifoOverrun s = { s with overrun := true } := rfl
@[simp] theorem raise_mediaAbsent (d : Slot) (s : State) :
    raise (.mediaAbsent d) s = s.setError.setReady d false := rfl
@[simp] theorem raise_reopenFailed (d : Slot) (s : State) :
    raise (.reopenFailed d) s = s.setError.setReady d false := rfl

/-- ShortIO is the error bit, and only on a mismatch (R192). -/
theorem noteShort_eq (actual len : Nat) (s : State) :
    noteShort actual len s = if actual = len then s else s.setError := rfl

/-! ## Backing files (R52 to R55) -/

/-- The bytes of a file after a write of `n` bytes of `data` was accepted (R55). -/
theorem byteAt_accept (f : DiskFile) (d : Slot) (data : List Byte) (n k : Nat) (hn : n ≤ data.length) :
    (f.accept data n).byteAt d k =
      if h : f.pos ≤ k ∧ k < f.pos + n then data[k - f.pos]'(by omega) else f.byteAt d k := by
  by_cases h : f.pos ≤ k ∧ k < f.pos + n
  · have hk : k - f.pos < n := by omega
    simp [DiskFile.byteAt, DiskFile.accept, Memory.read?_writeRun, h, Nat.min_eq_left hn, hk]
  · simp [DiskFile.byteAt, DiskFile.accept, Memory.read?_writeRun, h, Nat.min_eq_left hn]

/-- A write that accepts nothing leaves the file's length (R55). -/
@[simp] theorem grown_zero (f : DiskFile) : f.grown 0 = f.len := rfl

/-- Bytes accepted inside the file leave its length (R55). -/
theorem grown_inside (f : DiskFile) (n : Nat) (h : f.pos + n ≤ f.len) : f.grown n = f.len := by
  unfold DiskFile.grown
  split
  · rfl
  · exact Nat.max_eq_left h

/-- No write shortens a file. -/
theorem le_grown (f : DiskFile) (n : Nat) : f.len ≤ f.grown n := by
  unfold DiskFile.grown
  split
  · exact le_refl _
  · exact Nat.le_max_left _ _

/-- The room left behind a write's bytes does not depend on whether the file grew to hold them. -/
theorem grown_room (f : DiskFile) (n : Nat) : f.grown n - (f.pos + n) = f.len - (f.pos + n) := by
  unfold DiskFile.grown
  split <;> omega

/-- No answer accepts more than it was given (R55). -/
theorem answerAccepts_le (a : StoreAnswer) (readOnly : Bool) (room len : Nat) :
    answerAccepts a readOnly room len ≤ len := by
  unfold answerAccepts
  split
  · split <;> omega
  · omega

/-- A write never accepts more than it was given (R55). -/
theorem writeCount_le (d : Slot) (len : Nat) (s : State) : writeCount d len s ≤ len := by
  unfold writeCount
  split
  · exact answerAccepts_le _ _ _ _
  · omega

/-- A read never answers more than it was asked for (R54). -/
theorem length_readData_le (d : Slot) (len : Nat) (s : State) : (readData d len s).length ≤ len := by
  unfold readData
  split
  · split
    · simp only [List.length_map, List.length_range]
      omega
    · simp only [List.length_take]
      omega
  · simp

/-- A file's state after a seek (R53). -/
theorem disk_get_storeSeek (d e : Slot) (off : Nat) (s : State) :
    (storeSeek d off s).disk.get e =
      if e = d then { s.disk.get d with pos := if (s.disk.get d).isOpen then off else (s.disk.get d).pos }
      else s.disk.get e := by
  simp [storeSeek, Quad.get_set]

/-- A file's state after a read (R54). -/
theorem disk_get_storeRead (d e : Slot) (len : Nat) (s : State) :
    (storeRead d len s).disk.get e =
      if e = d then { s.disk.get d with pos := (s.disk.get d).pos + (readData d len s).length }
      else s.disk.get e := by
  simp [storeRead, Quad.get_set]

/-- A file's state after a write (R55). -/
theorem disk_get_storeWrite (d e : Slot) (data : List Byte) (s : State) :
    (storeWrite d data s).disk.get e =
      if e = d then (s.disk.get d).accept data (writeCount d data.length s) else s.disk.get e := by
  simp [storeWrite, Quad.get_set]

/-- A file's state after a close (R53). -/
theorem disk_get_storeClose (d e : Slot) (s : State) :
    (storeClose d s).disk.get e = if e = d then { s.disk.get d with isOpen := false } else s.disk.get e := by
  simp [storeClose, Quad.get_set]

/-- A file's state after an open attempt (R51). -/
theorem disk_get_storeOpen (d e : Slot) (s : State) :
    (storeOpen d s).disk.get e =
      if e = d then
        { s.disk.get d with isOpen := openOk d s, roHandle := openOk d s && (s.drv.get d).ro, pos := 0 }
      else s.disk.get e := by
  simp [storeOpen, Quad.get_set]

/-- A descriptor after its ready flag is written (R29). -/
theorem drv_get_setReady (d e : Slot) (b : Bool) (s : State) :
    (s.setReady d b).drv.get e = if e = d then { s.drv.get d with ready := b } else s.drv.get e := by
  simp [Quad.get_set]

/-! ## What the recursive operations leave alone -/

/-- The fields that opens, fills and Reopen never touch: everything but STATUS, DRV, DISK and the request counters. -/
structure StoreFrame (s t : State) : Prop where
  hold : t.hold = s.hold
  tf : t.tf = s.tf
  sel : t.sel = s.sel
  pending : t.pending = s.pending
  rerun : t.rerun = s.rerun
  viol : t.viol = s.viol
  overrun : t.overrun = s.overrun
  excl : t.excl = s.excl
  cur : t.cur = s.cur
  fifo : t.fifo = s.fifo
  dstate : t.dstate = s.dstate
  xstep : t.xstep = s.xstep
  xcmd : t.xcmd = s.xcmd
  xdrv : t.xdrv = s.xdrv
  capOff : t.capOff = s.capOff
  capData : t.capData = s.capData
  capDir : t.capDir = s.capDir
  wait : t.wait = s.wait
  dbdir : t.dbdir = s.dbdir
  hostEvents : t.hostEvents = s.hostEvents
  reads : t.reads = s.reads
  storeStuck : t.storeStuck = s.storeStuck
  pattern : Machine.pattern t.status = Machine.pattern s.status

theorem StoreFrame.refl (s : State) : StoreFrame s s := by constructor <;> rfl

theorem StoreFrame.trans {s t u : State} (h : StoreFrame s t) (k : StoreFrame t u) : StoreFrame s u := by
  constructor <;> simp [h.hold, h.tf, h.sel, h.pending, h.rerun, h.viol, h.overrun, h.excl, h.cur, h.fifo, h.dstate,
    h.xstep, h.xcmd, h.xdrv, h.capOff, h.capData, h.capDir, h.wait, h.dbdir, h.hostEvents, h.reads, h.storeStuck,
    h.pattern, k.hold, k.tf, k.sel, k.pending, k.rerun, k.viol, k.overrun, k.excl, k.cur, k.fifo, k.dstate, k.xstep,
    k.xcmd, k.xdrv, k.capOff, k.capData, k.capDir, k.wait, k.dbdir, k.hostEvents, k.reads, k.storeStuck, k.pattern]

theorem storeFrame_setError (s : State) : StoreFrame s s.setError := by constructor <;> simp
theorem storeFrame_setReady (d : Slot) (b : Bool) (s : State) : StoreFrame s (s.setReady d b) := by
  constructor <;> simp
theorem storeFrame_storeClose (d : Slot) (s : State) : StoreFrame s (storeClose d s) := by constructor <;> simp
theorem storeFrame_storeOpen (d : Slot) (s : State) : StoreFrame s (storeOpen d s) := by constructor <;> simp
theorem storeFrame_storeSeek (d : Slot) (off : Nat) (s : State) : StoreFrame s (storeSeek d off s) := by
  constructor <;> simp
theorem storeFrame_storeRead (d : Slot) (len : Nat) (s : State) : StoreFrame s (storeRead d len s) := by
  constructor <;> simp
theorem storeFrame_storeWrite (d : Slot) (data : List Byte) (s : State) : StoreFrame s (storeWrite d data s) := by
  constructor <;> simp

theorem storeFrame_reopenLoop (d : Slot) (n : Nat) : ∀ s : State, StoreFrame s (reopenLoop d n s) := by
  induction n with
  | zero => exact fun s => (storeFrame_setError s).trans (storeFrame_setReady d false _)
  | succ n ih =>
    intro s
    unfold reopenLoop
    split
    · exact (storeFrame_storeOpen d s).trans (storeFrame_setReady d true _)
    · exact (storeFrame_storeOpen d s).trans (ih _)

/-- Reopen touches STATUS's error bit, the drive's ready flag and the file's handle, and nothing else (R152). -/
theorem storeFrame_reopen (d : Slot) (s : State) : StoreFrame s (reopen d s) :=
  ((storeFrame_storeClose d s).trans (storeFrame_setReady d false _)).trans (storeFrame_reopenLoop d _ _)

theorem storeFrame_fillTrack (d : Slot) (ns : List Nat) : ∀ s : State, StoreFrame s (fillTrack d ns s) := by
  induction ns with
  | nil => exact fun s => StoreFrame.refl s
  | cons n ns ih =>
    intro s
    unfold fillTrack
    split
    · exact (storeFrame_storeWrite d _ s).trans (ih _)
    · exact (storeFrame_storeWrite d _ s).trans (storeFrame_setError _)

theorem storeFrame_closeUnpopulated (d : Slot) (s : State) : StoreFrame s (closeUnpopulated d s) := by
  unfold closeUnpopulated
  split
  · exact storeFrame_storeClose d s
  · exact StoreFrame.refl s

theorem storeFrame_openPopulated (d : Slot) (s : State) : StoreFrame s (openPopulated d s) := by
  unfold openPopulated
  split
  · exact ((storeFrame_storeClose d s).trans (storeFrame_storeOpen d _)).trans (storeFrame_setReady d true _)
  · exact (((storeFrame_storeClose d s).trans (storeFrame_storeOpen d _)).trans (storeFrame_setReady d false _)).trans
      ((storeFrame_setError _).trans (storeFrame_setReady d false _))

/-- A change of at most drive `d`: its ready flag, its file's handle, position and bytes. -/
structure DriveFrame (d : Slot) (s t : State) : Prop where
  others : ∀ e, e ≠ d → t.drv.get e = s.drv.get e ∧ t.disk.get e = s.disk.get e
  descriptor : t.drv.get d = { s.drv.get d with ready := (t.drv.get d).ready }
  media : (t.disk.get d).media = (s.disk.get d).media

theorem DriveFrame.refl (d : Slot) (s : State) : DriveFrame d s s := ⟨fun _ _ => ⟨rfl, rfl⟩, rfl, rfl⟩

theorem DriveFrame.trans {d : Slot} {s t u : State} (h : DriveFrame d s t) (k : DriveFrame d t u) :
    DriveFrame d s u := by
  refine ⟨fun e he => ?_, ?_, k.media.trans h.media⟩
  · exact ⟨(k.others e he).1.trans (h.others e he).1, (k.others e he).2.trans (h.others e he).2⟩
  · rw [k.descriptor, h.descriptor]

theorem driveFrame_setError (d : Slot) (s : State) : DriveFrame d s s.setError :=
  ⟨fun _ _ => ⟨rfl, rfl⟩, rfl, rfl⟩
theorem driveFrame_setReady (d : Slot) (b : Bool) (s : State) : DriveFrame d s (s.setReady d b) :=
  ⟨fun e he => by simp [Quad.get_set_other _ _ _ _ he], by simp, by simp⟩
theorem driveFrame_storeClose (d : Slot) (s : State) : DriveFrame d s (storeClose d s) :=
  ⟨fun e he => by simp [Quad.get_set_other _ _ _ _ he], by simp, by simp⟩
theorem driveFrame_storeOpen (d : Slot) (s : State) : DriveFrame d s (storeOpen d s) :=
  ⟨fun e he => by simp [disk_get_storeOpen, he], by simp, by simp [disk_get_storeOpen]⟩
theorem driveFrame_storeSeek (d : Slot) (off : Nat) (s : State) : DriveFrame d s (storeSeek d off s) :=
  ⟨fun e he => by simp [disk_get_storeSeek, he], by simp, by simp [disk_get_storeSeek]⟩
theorem driveFrame_storeRead (d : Slot) (len : Nat) (s : State) : DriveFrame d s (storeRead d len s) :=
  ⟨fun e he => by simp [disk_get_storeRead, he], by simp, by simp [disk_get_storeRead]⟩
theorem driveFrame_storeWrite (d : Slot) (data : List Byte) (s : State) : DriveFrame d s (storeWrite d data s) :=
  ⟨fun e he => by simp [disk_get_storeWrite, he], by simp, by simp [disk_get_storeWrite, DiskFile.accept]⟩

theorem driveFrame_reopenLoop (d : Slot) (n : Nat) : ∀ s : State, DriveFrame d s (reopenLoop d n s) := by
  induction n with
  | zero => exact fun s => (driveFrame_setError d s).trans (driveFrame_setReady d false _)
  | succ n ih =>
    intro s
    unfold reopenLoop
    split
    · exact (driveFrame_storeOpen d s).trans (driveFrame_setReady d true _)
    · exact (driveFrame_storeOpen d s).trans (ih _)

theorem driveFrame_reopen (d : Slot) (s : State) : DriveFrame d s (reopen d s) :=
  ((driveFrame_storeClose d s).trans (driveFrame_setReady d false _)).trans (driveFrame_reopenLoop d _ _)

theorem driveFrame_fillTrack (d : Slot) (ns : List Nat) : ∀ s : State, DriveFrame d s (fillTrack d ns s) := by
  induction ns with
  | nil => exact fun s => DriveFrame.refl d s
  | cons n ns ih =>
    intro s
    unfold fillTrack
    split
    · exact (driveFrame_storeWrite d _ s).trans (ih _)
    · exact (driveFrame_storeWrite d _ s).trans (driveFrame_setError d _)

/-! ## Bytes of files under requests that store nothing -/

theorem byteAt_congr {f g : DiskFile} (h : g.bytes = f.bytes) (d : Slot) (k : Nat) : g.byteAt d k = f.byteAt d k := by
  simp [DiskFile.byteAt, h]

/-- Every backing file has the same bytes and length. -/
def SameBytes (s t : State) : Prop :=
  ∀ d, (t.disk.get d).bytes = (s.disk.get d).bytes ∧ (t.disk.get d).len = (s.disk.get d).len

theorem SameBytes.refl (s : State) : SameBytes s s := fun _ => ⟨rfl, rfl⟩

theorem SameBytes.trans {s t u : State} (h : SameBytes s t) (k : SameBytes t u) : SameBytes s u :=
  fun d => ⟨(k d).1.trans (h d).1, (k d).2.trans (h d).2⟩

theorem sameBytes_of_disk {s t : State} (h : t.disk = s.disk) : SameBytes s t := fun d => by simp [h]

theorem sameBytes_storeClose (d : Slot) (s : State) : SameBytes s (storeClose d s) := fun e => by
  by_cases h : e = d <;> simp [Quad.get_set, h]
theorem sameBytes_storeOpen (d : Slot) (s : State) : SameBytes s (storeOpen d s) := fun e => by
  by_cases h : e = d <;> simp [disk_get_storeOpen, h]
theorem sameBytes_storeSeek (d : Slot) (off : Nat) (s : State) : SameBytes s (storeSeek d off s) := fun e => by
  by_cases h : e = d <;> simp [disk_get_storeSeek, h]
theorem sameBytes_storeRead (d : Slot) (len : Nat) (s : State) : SameBytes s (storeRead d len s) := fun e => by
  by_cases h : e = d <;> simp [disk_get_storeRead, h]

theorem sameBytes_reopenLoop (d : Slot) (n : Nat) : ∀ s : State, SameBytes s (reopenLoop d n s) := by
  induction n with
  | zero => exact fun s => sameBytes_of_disk rfl
  | succ n ih =>
    intro s
    unfold reopenLoop
    split
    · exact (sameBytes_storeOpen d s).trans (sameBytes_of_disk rfl)
    · exact (sameBytes_storeOpen d s).trans (ih _)

/-- Reopen stores nothing (R152). -/
theorem sameBytes_reopen (d : Slot) (s : State) : SameBytes s (reopen d s) :=
  ((sameBytes_storeClose d s).trans (sameBytes_of_disk rfl)).trans (sameBytes_reopenLoop d _ _)

/-- Closing an unpopulated drive stores nothing (R32). -/
theorem sameBytes_closeUnpopulated (d : Slot) (s : State) : SameBytes s (closeUnpopulated d s) := by
  unfold closeUnpopulated
  split
  · exact sameBytes_storeClose d s
  · exact SameBytes.refl s

/-- Opening a populated drive stores nothing (R173). -/
theorem sameBytes_openPopulated (d : Slot) (s : State) : SameBytes s (openPopulated d s) := by
  unfold openPopulated
  split
  · exact ((sameBytes_storeClose d s).trans (sameBytes_storeOpen d _)).trans (sameBytes_of_disk rfl)
  · exact ((sameBytes_storeClose d s).trans (sameBytes_storeOpen d _)).trans (sameBytes_of_disk rfl)

/-! ## Reinitialisation (R173): its Store requests -/

/-- Past Controller State and the descriptors, reinitialisation changes only what Store requests change. -/
theorem storeFrame_reinit (s : State) : StoreFrame (reinitControl s) (reinit s) :=
  (((storeFrame_closeUnpopulated 1 _).trans (storeFrame_closeUnpopulated 2 _)).trans
    (storeFrame_openPopulated 0 _)).trans (storeFrame_openPopulated 3 _)

/-- Reinitialisation stores nothing. -/
theorem sameBytes_reinit (s : State) : SameBytes s (reinit s) :=
  ((((sameBytes_of_disk rfl).trans (sameBytes_closeUnpopulated 1 (reinitControl s))).trans
    (sameBytes_closeUnpopulated 2 _)).trans (sameBytes_openPopulated 0 _)).trans (sameBytes_openPopulated 3 _)

end Sys2Proof.Machine
end

