-- ==== Sys2Proof/Laws/Commands.lean ====
section
/-! SUPPORT. What each step of the disk commands can do, said once as an equation on the whole state, and the lemmas that
turn the frames of Safety into field equations. -/

namespace Sys2Proof.Machine

/-- What `Validate` tests (R56). -/
theorem Drive.valid_iff (v : Drive) :
    v.valid = true ↔ v.curCyl.toNat < v.cyls.toNat ∧ v.curHead.toNat < v.heads.toNat ∧
      v.curSec.toNat < v.spt.toNat ∧ v.curSize = v.secsize := by
  simp [Drive.valid, and_assoc]

/-- The cylinder as a number (R79). -/
theorem toNat_cylinderOf (tf : TaskFile) : (cylinderOf tf).toNat = tf.cylHi.toNat * 256 + tf.cylLo.toNat := by
  unfold cylinderOf
  rw [BitVec.toNat_append, ← Nat.shiftLeft_add_eq_or_of_lt tf.cylLo.isLt, Nat.shiftLeft_eq]

/-- The drive a drive-select byte names (R81). -/
theorem toNat_driveDecode (b : Byte) : (driveDecode b).toNat = b.toNat % 4 := by
  revert b
  decide

/-- R7's constraint on the capacity. -/
theorem le_fifoCap : 65280 ≤ Config.fifoCap := by
  unfold Config.fifoCap
  exact Nat.le_add_left _ _

/-- At the commands' sector size a transfer is at most 65,280 bytes (R58 (c)). -/
theorem transferLength_le (v : Drive) (h : v.curSize = 256) : v.transferLength ≤ 65280 := by
  have hx := v.xfer.isLt
  have hs : v.curSize.toNat = 256 := by rw [h]; rfl
  unfold Drive.transferLength
  rw [hs]
  exact Nat.mul_le_mul_right 256 (Nat.le_of_lt_succ hx)

theorem transferLength_le_fifoCap (v : Drive) (h : v.curSize = 256) : v.transferLength ≤ Config.fifoCap :=
  (transferLength_le v h).trans le_fifoCap

/-- ShortIO is a write of STATUS alone (R192). -/
theorem noteShort_eq_status (actual len : Nat) (s : State) :
    noteShort actual len s = { s with status := if actual = len then s.status else setErrorBit s.status } := by
  unfold noteShort
  split <;> rfl

/-- `Finish()` keeps PENDING exactly where a Reset is to be re-run (R150). -/
theorem finish_eq (s : State) :
    finish s = { s with pending := s.rerun && s.pending, rerun := false, dstate := .idle } := by
  obtain ⟨_, _, _, p, r, _⟩ := s
  cases r <;> rfl

/-! ## Validation (R56, R151) -/

theorem validateStep_pass {s : State} (h : (s.drv.get s.xdrv).valid = true) :
    validateStep s = { s with status := clearErrorBit s.status, xstep := .s4 } := by
  simp [validateStep, h, State.clearError]

theorem validateStep_fail {s : State} (h : ¬ (s.drv.get s.xdrv).valid = true) :
    validateStep s = { s with
      status := setErrorBit s.status, pending := s.rerun && s.pending, rerun := false, dstate := .idle } := by
  simp [validateStep, h, abort, finish_eq, State.setError]

/-- Format's validation sees the working sector 0 (R169). -/
theorem drv_get_clearSector (s : State) (e : Slot) :
    (clearSector s).drv.get e = if e = s.xdrv then { s.drv.get s.xdrv with curSec := 0 } else s.drv.get e := by
  simp [clearSector, Quad.get_set]

/-! ## Completion (R150) -/

theorem complete_eq (p : Byte) (s : State) :
    complete p s = { s with
      status := setPattern p s.status, pending := s.rerun && s.pending, rerun := false, dstate := .idle } := by
  simp [complete, finish_eq, State.setPattern]

/-- The completion step of a command, in its critical section (R153). -/
theorem critical_complete_eq (p : Byte) (s : State) :
    critical (complete p) s = { s with
      status := setPattern p s.status, pending := s.rerun && s.pending, rerun := false, dstate := .idle,
      excl := false } := by
  simp [critical, complete_eq]

/-! ## Transfers (R167, R168) -/

/-- The state of drive `d`'s file after a seek to its translated offset (R53). -/
def soughtFile (d : Slot) (s : State) : DiskFile :=
  { s.disk.get d with
    pos := if (s.disk.get d).isOpen then (s.drv.get d).byteOffset else (s.disk.get d).pos }

theorem disk_get_readSeek (s : State) : (readSeek s).disk.get s.xdrv = soughtFile s.xdrv s := by
  simp [readSeek, soughtFile, disk_get_storeSeek]

theorem disk_get_writeSeek (s : State) : (writeSeek s).disk.get s.xdrv = soughtFile s.xdrv s := by
  simp [writeSeek, soughtFile, disk_get_storeSeek]

/-- All that Read's transfer step does (R167). -/
theorem readTransfer_eq (s : State) :
    readTransfer s = { s with
      fifo := s.fifo.writeRun 0 (readTransferData s)
      disk := s.disk.set s.xdrv
        { soughtFile s.xdrv s with pos := (soughtFile s.xdrv s).pos + (readTransferData s).length }
      status := if (readTransferData s).length = (s.drv.get s.xdrv).transferLength then s.status
        else setErrorBit s.status
      xstep := .s5
      excl := false
      storeReqs := s.storeReqs + 2
      storeAnswers := s.storeAnswers.tail } := by
  have hE : readTransferData { s with excl := true } = readTransferData s := rfl
  simp only [readTransfer, critical, hE, noteShort_eq_status]
  simp only [bulkIn, storeRead, readSeek, storeSeek, State.issue, State.issueAnswered, State.setDisk, Quad.set_set,
    Quad.get_set_same]
  rfl

/-- All that Write's transfer step does (R168). -/
theorem writeTransfer_eq (s : State) :
    writeTransfer s = { s with
      disk := s.disk.set s.xdrv
        ((soughtFile s.xdrv s).accept (bulkOut (s.drv.get s.xdrv).transferLength s) (writeTransferCount s))
      status := if writeTransferCount s = (s.drv.get s.xdrv).transferLength then s.status else setErrorBit s.status
      xstep := .s5
      excl := false
      storeReqs := s.storeReqs + 2
      storeAnswers := s.storeAnswers.tail } := by
  have hE : writeTransferCount { s with excl := true } = writeTransferCount s := rfl
  have hB : bulkOut (s.drv.get s.xdrv).transferLength { s with excl := true }
      = bulkOut (s.drv.get s.xdrv).transferLength s := rfl
  have hC : ∀ n, writeCount s.xdrv n (writeSeek { s with excl := true }) = writeCount s.xdrv n (writeSeek s) :=
    fun _ => rfl
  simp only [writeTransfer, critical, hE, noteShort_eq_status, storeWrite, hB, length_bulkOut, hC]
  simp only [writeSeek, storeSeek, State.issue, State.issueAnswered, State.setDisk, Quad.set_set, Quad.get_set_same]
  rfl

/-- A write on a closed handle accepts nothing (R52). -/
theorem writeTransferCount_closed {s : State} (h : (s.disk.get s.xdrv).isOpen = false) : writeTransferCount s = 0 := by
  simp [writeTransferCount, writeCount, disk_get_writeSeek, soughtFile, h]

/-- How much of Write's transfer the reference store accepts (R55). -/
theorem writeTransferCount_reference {s : State} {rest : List StoreAnswer} (ho : (s.disk.get s.xdrv).isOpen = true)
    (ha : s.storeAnswers = .reference :: rest) :
    writeTransferCount s = if (s.disk.get s.xdrv).roHandle then 0
      else min (s.drv.get s.xdrv).transferLength ((s.disk.get s.xdrv).len - (s.drv.get s.xdrv).byteOffset) := by
  have hn : (writeSeek s).nextAnswer = .reference := by simp [State.nextAnswer, writeSeek, ha]
  simp only [writeTransferCount, writeCount, disk_get_writeSeek, hn, soughtFile, ho, if_true, answerAccepts]

/-- The bytes of the selected drive's file after Write's transfer (R168). -/
theorem byteAt_writeTransfer (s : State) (k : Nat) :
    ((writeTransfer s).disk.get s.xdrv).byteAt s.xdrv k =
      if (s.drv.get s.xdrv).byteOffset ≤ k ∧ k < (s.drv.get s.xdrv).byteOffset + writeTransferCount s
      then s.fifoByte (k - (s.drv.get s.xdrv).byteOffset) else (s.disk.get s.xdrv).byteAt s.xdrv k := by
  have hle : writeTransferCount s ≤ (bulkOut (s.drv.get s.xdrv).transferLength s).length := by
    rw [length_bulkOut]
    exact writeCount_le _ _ _
  rw [writeTransfer_eq]
  simp only [Quad.get_set_same]
  rw [byteAt_accept _ _ _ _ _ hle]
  cases ho : (s.disk.get s.xdrv).isOpen with
  | true =>
    simp only [soughtFile, ho, if_true, getElem_bulkOut, dite_eq_ite]
    rfl
  | false =>
    have h0 := writeTransferCount_closed ho
    rw [dif_neg (by omega), if_neg (by omega)]
    rfl

/-! ## Read parameters, Access FIFO (R170, R171) -/

theorem paramsTransfer_eq (s : State) :
    paramsTransfer s = { s with
      fifo := s.fifo.writeRun 0 Config.paramTable, xstep := .s4, excl := false } := by
  simp only [paramsTransfer, critical, bulkIn]

theorem fifoByte_paramsTransfer (s : State) (k : Nat) :
    (paramsTransfer s).fifoByte k = if k < 108 then Config.paramByte k else s.fifoByte k := by
  have h : (paramsTransfer s).fifoByte k = (bulkIn Config.paramTable s).fifoByte k := fifoByte_congr (by simp [paramsTransfer]) k
  rw [h, fifoByte_bulkIn]
  by_cases h : k < 108 <;> simp [Config.paramTable, h]

/-! ## Format's fill (R169) -/

/-- R7's constraint on the chunk size. -/
theorem fillChunk_pos : 0 < Config.fillChunk := by
  unfold Config.fillChunk
  split
  · rename_i h
    simp only [Config.fillChunkLegal, Bool.and_eq_true, decide_eq_true_eq] at h
    exact h.1.1.1.1
  · decide

/-- The chunks make up the track. -/
theorem sum_fillChunks (track chunk : Nat) : (fillChunks track chunk).sum = track := by
  have h := Nat.div_add_mod track chunk
  have h' : track / chunk * chunk = chunk * (track / chunk) := Nat.mul_comm _ _
  unfold fillChunks
  split <;> simp <;> omega

/-- No chunk is longer than `FILL_CHUNK`. -/
theorem le_of_mem_fillChunks {track chunk n : Nat} (hc : 0 < chunk) (hn : n ∈ fillChunks track chunk) : n ≤ chunk := by
  have h := Nat.mod_lt track hc
  unfold fillChunks at hn
  split at hn <;> simp at hn <;> omega

/-- The bytes of a file after a fill of `n` bytes was accepted (R55, R169). -/
theorem byteAt_accept_replicate (f : DiskFile) (d : Slot) (b : Byte) (n m k : Nat) (h : n ≤ m) :
    (f.accept (List.replicate m b) n).byteAt d k = if f.pos ≤ k ∧ k < f.pos + n then b else f.byteAt d k := by
  rw [byteAt_accept _ _ _ _ _ (by simpa using h)]
  split <;> simp

/-- A chunk the STORE accepts whole: the reference store on a writable handle inside the file (R55), or an answer of at
least that many bytes. -/
theorem writeCount_accepted {d : Slot} {n : Nat} {s : State} (ho : (s.disk.get d).isOpen = true)
    (h : (s.nextAnswer = .reference ∧ (s.disk.get d).roHandle = false ∧ (s.disk.get d).pos + n ≤ (s.disk.get d).len) ∨
      ∃ ok data accepted, s.nextAnswer = .free ok data accepted ∧ n ≤ accepted) : writeCount d n s = n := by
  rcases h with ⟨h, hr, hl⟩ | ⟨ok, data, accepted, h, hn⟩
  · simp only [writeCount, answerAccepts, ho, h, hr, if_true, Bool.false_eq_true, if_false]
    omega
  · simp only [writeCount, answerAccepts, ho, h, if_true]
    omega

/-! ## Opens (R152, R173) -/

/-- The STORE's next answer where one is scripted (log 6). -/
theorem nextAnswer_cons {s : State} {a : StoreAnswer} {rest : List StoreAnswer} (h : s.storeAnswers = a :: rest) :
    s.nextAnswer = a := by
  simp [State.nextAnswer, h]

/-- All that opening a populated drive does (R173). -/
theorem openPopulated_eq (d : Slot) (s : State) :
    openPopulated d s = { s with
      status := if openOk d (storeClose d s) then s.status else setErrorBit s.status
      drv := s.drv.set d { s.drv.get d with ready := openOk d (storeClose d s) }
      disk := s.disk.set d { s.disk.get d with
        isOpen := openOk d (storeClose d s), roHandle := openOk d (storeClose d s) && (s.drv.get d).ro, pos := 0 }
      storeReqs := s.storeReqs + 2
      storeAnswers := s.storeAnswers.tail } := by
  unfold openPopulated storeOpen
  generalize openOk d (storeClose d s) = ok
  cases ok <;>
    simp [storeClose, State.setReady, State.setDrive, State.setDisk, State.issue, State.issueAnswered, State.setError]

/-- All that closing an unpopulated drive does (R32): one request where its file is open, none where it is closed. -/
theorem closeUnpopulated_eq (d : Slot) (s : State) :
    closeUnpopulated d s = { s with
      disk := s.disk.set d { s.disk.get d with isOpen := false }
      storeReqs := s.storeReqs + if (s.disk.get d).isOpen then 1 else 0 } := by
  unfold closeUnpopulated
  cases h : (s.disk.get d).isOpen with
  | true => rfl
  | false =>
    have e : { s.disk.get d with isOpen := false } = s.disk.get d := by rw [← h]
    rw [e, Quad.set_get]
    rfl

/-- A closed unpopulated drive is left alone (R173). -/
theorem closeUnpopulated_closed {d : Slot} {s : State} (h : (s.disk.get d).isOpen = false) : closeUnpopulated d s = s := by
  simp [closeUnpopulated, h]

/-- All that reinitialisation does to the two unpopulated drives (R32). -/
theorem closeUnpopulated_both (s : State) :
    closeUnpopulated 2 (closeUnpopulated 1 s) = { s with
      disk := ⟨s.disk.get 0, { s.disk.get 1 with isOpen := false }, { s.disk.get 2 with isOpen := false }, s.disk.get 3⟩
      storeReqs := s.storeReqs + (if (s.disk.get 1).isOpen then 1 else 0) +
        (if (s.disk.get 2).isOpen then 1 else 0) } := by
  rw [closeUnpopulated_eq 2, closeUnpopulated_eq 1]
  rfl

/-- Which answer opens a populated drive (R173). -/
theorem openOk_storeClose (d : Slot) {s : State} {a : StoreAnswer} {rest : List StoreAnswer}
    (h : s.storeAnswers = a :: rest) : openOk d (storeClose d s) = answerOpens a (s.disk.get d).media := by
  have hn : (storeClose d s).nextAnswer = a := nextAnswer_cons (rest := rest) (by simp [h])
  simp [openOk, hn]

/-- Reopen's attempts where the first `fails.length` answers refuse and the next accepts (R152). -/
theorem reopenLoop_success (d : Slot) (a : StoreAnswer) (rest fails : List StoreAnswer) : ∀ (n : Nat) (s : State),
    s.storeAnswers = fails ++ a :: rest → fails.length < n →
    (∀ f ∈ fails, answerOpens f (s.disk.get d).media = false) → answerOpens a (s.disk.get d).media = true →
    reopenLoop d n s = { s with
      drv := s.drv.set d { s.drv.get d with ready := true }
      disk := s.disk.set d { s.disk.get d with isOpen := true, roHandle := (s.drv.get d).ro, pos := 0 }
      storeReqs := s.storeReqs + (fails.length + 1)
      storeAnswers := rest } := by
  induction fails with
  | nil =>
    intro n s h hn _ ha
    obtain ⟨n, rfl⟩ : ∃ m, n = m + 1 := ⟨n - 1, by simp at hn; omega⟩
    have ho : openOk d s = true := by simp [openOk, nextAnswer_cons h, ha]
    simp [reopenLoop, ho, State.setReady, State.setDrive, storeOpen, State.setDisk, State.issueAnswered, h]
  | cons f fs ih =>
    intro n s h hn hf ha
    obtain ⟨n, rfl⟩ : ∃ m, n = m + 1 := ⟨n - 1, by simp at hn; omega⟩
    have ho : openOk d s = false := by simpa [openOk, nextAnswer_cons h] using hf f (by simp)
    have hm : ((storeOpen d s).disk.get d).media = (s.disk.get d).media := by simp [disk_get_storeOpen]
    rw [reopenLoop, if_neg (by simp [ho]), ih n (storeOpen d s) (by simp [h]) (by simp at hn; omega)
      (fun g hg => by rw [hm]; exact hf g (by simp [hg])) (by rwa [hm])]
    simp [storeOpen, State.setDisk, State.issueAnswered]
    omega

/-- Reopen's attempts where every answer refuses (R152, R197). -/
theorem reopenLoop_failure (d : Slot) (rest fails : List StoreAnswer) : ∀ s : State,
    s.storeAnswers = fails ++ rest → (∀ f ∈ fails, answerOpens f (s.disk.get d).media = false) →
    reopenLoop d fails.length s = { s with
      status := setErrorBit s.status
      drv := s.drv.set d { s.drv.get d with ready := false }
      disk := if fails = [] then s.disk
        else s.disk.set d { s.disk.get d with isOpen := false, roHandle := false, pos := 0 }
      storeReqs := s.storeReqs + fails.length
      storeAnswers := rest } := by
  induction fails with
  | nil =>
    intro s h _
    have h' : s.storeAnswers = rest := h
    simp [reopenLoop, State.setError, State.setReady, State.setDrive, h']
  | cons f fs ih =>
    intro s h hf
    have ho : openOk d s = false := by simpa [openOk, nextAnswer_cons h] using hf f (by simp)
    have hm : ((storeOpen d s).disk.get d).media = (s.disk.get d).media := by simp [disk_get_storeOpen]
    rw [List.length_cons, reopenLoop, if_neg (by simp [ho]), ih (storeOpen d s) (by simp [h])
      (fun g hg => by rw [hm]; exact hf g (by simp [hg]))]
    simp [storeOpen, State.setDisk, State.issueAnswered, ho]
    omega

end Sys2Proof.Machine
end

