-- ==== Sys2Proof/Laws/Encoding.lean ====
section
/-! SUPPORT. Laws of the transaction word's fields (R71) and of the trigger byte (R74, R75). -/

namespace Sys2Proof

@[simp] theorem wordIsWrite_transWord (w : Bool) (off data : Byte) : wordIsWrite (transWord w off data) = w := by
  simp only [wordIsWrite, transWord, BitVec.getLsbD_append]
  cases w <;> rfl

@[simp] theorem wordOffset_transWord (w : Bool) (off data : Byte) : wordOffset (transWord w off data) = off := by
  apply BitVec.eq_of_getLsbD_eq
  intro i hi
  simp only [wordOffset, transWord, BitVec.getLsbD_extractLsb', BitVec.getLsbD_append, hi, decide_true, Bool.true_and]
  rw [if_neg (by omega), if_pos (by omega)]
  congr 1
  omega

@[simp] theorem wordData_transWord (w : Bool) (off data : Byte) : wordData (transWord w off data) = data := by
  apply BitVec.eq_of_getLsbD_eq
  intro i hi
  simp only [wordData, transWord, BitVec.getLsbD_extractLsb', BitVec.getLsbD_append, hi, decide_true, Bool.true_and]
  rw [if_pos (by omega), Nat.zero_add]

/-- A transaction word is its three fields. -/
theorem transWord_fields (w : TransWord) : transWord (wordIsWrite w) (wordOffset w) (wordData w) = w := by
  apply BitVec.eq_of_getLsbD_eq
  intro i hi
  simp only [transWord, BitVec.getLsbD_append, wordIsWrite, wordOffset, wordData, BitVec.getLsbD_extractLsb']
  split
  · simp_all
  · split
    · rename_i h1 h2
      simp [show i - 8 < 8 by omega, show 8 + (i - 8) = i by omega]
    · have : i = 16 := by omega
      subst this
      simp

@[simp] theorem low7_triggerByte (c : Bool) (l : BitVec 7) : low7 (triggerByte c l) = l := by
  revert c l
  decide

@[simp] theorem triggerByte_bit7 (c : Bool) (l : BitVec 7) : (triggerByte c l)[7] = c := by
  revert c l
  decide

/-- A byte is its bit 7 and its low seven bits. -/
theorem triggerByte_low7 (b : Byte) : triggerByte (b.getLsbD 7) (low7 b) = b := by
  revert b
  decide

@[simp] theorem decodeTrigger_triggerByte (c : Bool) (l : BitVec 7) :
    decodeTrigger (triggerByte c l) = if c then .wr0cmd l else .wr0par l := by
  simp [decodeTrigger]

theorem selectedOffset_iff (off : Byte) : selectedOffset off = true ↔ off.toNat < 16 := by
  simp [selectedOffset]

/-- A reserved offset is selected and none of the map's (R72). -/
theorem reservedOffset_ne (off : Byte) (h : reservedOffset off = true) :
    selectedOffset off = true ∧ off ≠ 0 ∧ off ≠ 1 ∧ off ≠ 2 ∧ off ≠ 3 ∧ off ≠ 4 ∧ off ≠ 8 := by
  revert off
  decide

/-- A selected offset is one of the map's or reserved (R72). -/
theorem selectedOffset_cases (off : Byte) (h : selectedOffset off = true) :
    off = 0 ∨ off = 1 ∨ off = 2 ∨ off = 3 ∨ off = 4 ∨ off = 8 ∨ reservedOffset off = true := by
  revert off
  decide

/-- A transaction word in three bytes decodes as the word itself. -/
theorem decode_bytes_bus (w : TransWord) : decode (Code.bus w).bytes = decodeBus w := by
  have h : ∀ b : Bool, ((BitVec.ofBool b).setWidth 8 : Byte).toNat < 2 ∧
      ((BitVec.ofBool b).setWidth 8 : Byte).getLsbD 0 = b := by decide
  simp only [Code.bytes, decode, if_pos (h _).1, (h _).2, transWord_fields]

/-- A command byte decodes as its opcode. -/
theorem decode_bytes_cmd (op : Opcode) : decode (Code.cmd op).bytes = .ok (decodeCommand op) := by
  simp [Code.bytes, decode]

end Sys2Proof
end

