-- ==== Sys2Proof/Laws/PerInstr.lean ====
section
/-! SUPPORT. Statements about every instruction, one lemma per constructor. -/

namespace Sys2Proof.Laws

/-- The encoded word of a well-formed instruction fits the instruction's row of the opcode table (R85). -/
def TableRow.Statement (i : Instr) : Prop :=
  i.wellFormed = true → (encode i).toNat &&& (tableRow i).1 = (tableRow i).2

/-- The row of a reserved write, for every reserved offset and every data byte. -/
theorem reservedWrite_fits : ∀ off : Byte, reservedOffset off = true →
    ∀ data : Byte, (transWord true off data).toNat &&& 0x1F000 = 0x10000 := by
  decide


theorem TableRow.rd0 : TableRow.Statement .rd0 := fun _ => by decide

theorem TableRow.wr0cmd (op : Opcode) : TableRow.Statement (.wr0cmd op) := by
  revert op
  unfold TableRow.Statement
  decide

theorem TableRow.wr0par (sector : BitVec 7) : TableRow.Statement (.wr0par sector) := by
  revert sector
  unfold TableRow.Statement
  decide

theorem TableRow.wr1 (data : Byte) : TableRow.Statement (.wr1 data) := by
  revert data
  unfold TableRow.Statement
  decide

theorem TableRow.wr2 (data : Byte) : TableRow.Statement (.wr2 data) := by
  revert data
  unfold TableRow.Statement
  decide

theorem TableRow.wr3 (data : Byte) : TableRow.Statement (.wr3 data) := by
  revert data
  unfold TableRow.Statement
  decide

theorem TableRow.wr4 (data : Byte) : TableRow.Statement (.wr4 data) := by
  revert data
  unfold TableRow.Statement
  decide

theorem TableRow.rd1 : TableRow.Statement .rd1 := fun _ => by decide

theorem TableRow.rd2 : TableRow.Statement .rd2 := fun _ => by decide

theorem TableRow.rd3 : TableRow.Statement .rd3 := fun _ => by decide

theorem TableRow.rd4 : TableRow.Statement .rd4 := fun _ => by decide

theorem TableRow.rd8 : TableRow.Statement .rd8 := fun _ => by decide

theorem TableRow.wr8 (data : Byte) : TableRow.Statement (.wr8 data) := by
  revert data
  unfold TableRow.Statement
  decide

theorem TableRow.rdx (off : Byte) : TableRow.Statement (.rdx off) := by
  revert off
  unfold TableRow.Statement
  decide

theorem TableRow.wrx (off data : Byte) : TableRow.Statement (.wrx off data) :=
  fun h => reservedWrite_fits off h data

theorem TableRow.reset : TableRow.Statement .reset := fun _ => by decide

theorem TableRow.read : TableRow.Statement .read := fun _ => by decide

theorem TableRow.write : TableRow.Statement .write := fun _ => by decide

theorem TableRow.format : TableRow.Statement .format := fun _ => by decide

theorem TableRow.fifo : TableRow.Statement .fifo := fun _ => by decide

theorem TableRow.params : TableRow.Statement .params := fun _ => by decide

theorem TableRow.unknown (op : Opcode) : TableRow.Statement (.unknown op) := by
  intro _
  exact Nat.and_zero _

end Sys2Proof.Laws
end

