-- ==== Sys2Proof/Laws/Steps.lean ====
section
/-! SUPPORT. What a step can do, said once: every step of a disk command is one of ten kinds, every step of the machine one
of six. An invariant is proved by cases on these, not by unfolding `exec` and `step`. -/

namespace Sys2Proof.Machine

/-- The steps of the disk commands (R153), with what holds when each is taken. -/
inductive CommandStep : Instr → State → State → Prop
  /-- a Store request that never answers (R154, log 9) -/
  | stuck (i : Instr) (s : State) (inCritical : Bool) : s.storeStuck = true →
    CommandStep i s { s with excl := s.excl || inCritical }
  /-- Reset's one step (R166) -/
  | reset (s : State) : s.storeStuck = false → CommandStep .reset s (resetStep s)
  /-- Read's and Write's validation (R56) -/
  | validate (i : Instr) (s : State) : i = .read ∨ i = .write → s.xstep = .s3 → CommandStep i s (validateStep s)
  /-- Format's validation (R169) -/
  | validateFormat (s : State) : s.xstep = .s3 → CommandStep .format s (validateStep (clearSector s))
  /-- Read's transfer (R167) -/
  | readTransfer (s : State) : s.xstep = .s4 → (readTransferData s).length ≤ Config.fifoCap →
    CommandStep .read s (Machine.readTransfer s)
  /-- Write's transfer (R168) -/
  | writeTransfer (s : State) : s.xstep = .s4 → (s.drv.get s.xdrv).transferLength ≤ Config.fifoCap →
    CommandStep .write s (Machine.writeTransfer s)
  /-- Format's fill (R169) -/
  | fill (s : State) : s.xstep = .s4 → CommandStep .format s (fillStep s)
  /-- Write's and Format's reopen (R152) -/
  | reopen (i : Instr) (s : State) : i = .write ∨ i = .format → s.xstep = .s5 → CommandStep i s (reopenStep s)
  /-- Read parameters' transfer (R171) -/
  | params (s : State) : s.xstep = .s3 → CommandStep .params s (paramsTransfer s)
  /-- Access FIFO's one step (R170) -/
  | fifo (s : State) : CommandStep .fifo s (critical (fun u => complete stFdone (fifoReset u)) s)
  /-- the other commands' completion (R150) -/
  | complete (i : Instr) (s : State) (p : Byte) : i.isBus = false → i ≠ .reset → i ≠ .fifo →
    p = stData ∨ p = stWdone ∨ p = stFdone → CommandStep i s (critical (Machine.complete p) s)

/-- A step that issues Store requests is stuck or done (R154). -/
theorem awaitStore_cases (b : Bool) (s t : State) :
    (s.storeStuck = true ∧ awaitStore b s t = { s with excl := s.excl || b }) ∨
      (s.storeStuck = false ∧ awaitStore b s t = t) := by
  unfold awaitStore
  cases h : s.storeStuck <;> simp

/-- From the outcome of a step that may be stuck to the kind of step it was. -/
theorem commandStep_awaitStore {i : Instr} {b : Bool} {s t u : State} (h : CommandStep i s u)
    (e : (Host.Outcome.next (awaitStore b s u) : Host.Outcome State Fault Refusal) = .next t) : CommandStep i s t := by
  cases e
  rcases awaitStore_cases b s u with ⟨hs, e⟩ | ⟨_, e⟩
  · rw [e]
    exact .stuck i s b hs
  · rwa [e]

theorem commandStep_reset {s t : State} (h : execReset s = .next t) : CommandStep .reset s t := by
  unfold execReset at h
  cases h
  rcases awaitStore_cases true s (resetStep s) with ⟨hs, e⟩ | ⟨hs, e⟩
  · rw [e]
    exact .stuck _ s _ hs
  · rw [e]
    exact .reset s hs

theorem commandStep_read {s t : State} (h : execRead s = .next t) : CommandStep .read s t := by
  unfold execRead at h
  split at h
  · cases h
    exact .validate _ s (.inl rfl) ‹_›
  · split at h
    · exact commandStep_awaitStore (.readTransfer s ‹_› ‹_›) h
    · cases h
  · cases h
    exact .complete _ s _ rfl (by simp) (by simp) (.inl rfl)
  · cases h
    exact .complete _ s _ rfl (by simp) (by simp) (.inl rfl)

theorem commandStep_write {s t : State} (h : execWrite s = .next t) : CommandStep .write s t := by
  unfold execWrite at h
  split at h
  · cases h
    exact .validate _ s (.inr rfl) ‹_›
  · split at h
    · exact commandStep_awaitStore (.writeTransfer s ‹_› ‹_›) h
    · cases h
  · exact commandStep_awaitStore (.reopen _ s (.inl rfl) ‹_›) h
  · cases h
    exact .complete _ s _ rfl (by simp) (by simp) (.inr (.inl rfl))

theorem commandStep_format {s t : State} (h : execFormat s = .next t) : CommandStep .format s t := by
  unfold execFormat at h
  split at h
  · cases h
    exact .validateFormat s ‹_›
  · exact commandStep_awaitStore (.fill s ‹_›) h
  · exact commandStep_awaitStore (.reopen _ s (.inr rfl) ‹_›) h
  · cases h
    exact .complete _ s _ rfl (by simp) (by simp) (.inr (.inr rfl))

theorem commandStep_params {s t : State} (h : execParams s = .next t) : CommandStep .params s t := by
  unfold execParams at h
  split at h <;> cases h
  · exact .params s ‹_›
  all_goals exact .complete _ s _ rfl (by simp) (by simp) (.inl rfl)

/-- Every step of a disk command is of one of the kinds above. -/
theorem commandStep_of_exec {i : Instr} {s t : State} (hb : i.isBus = false) (h : exec i s = .next t) :
    CommandStep i s t := by
  cases i <;> try cases hb
  case reset => exact commandStep_reset h
  case read => exact commandStep_read h
  case write => exact commandStep_write h
  case format => exact commandStep_format h
  case params => exact commandStep_params h
  case fifo =>
    cases h
    exact .fifo s
  case unknown op =>
    cases h
    exact .complete (.unknown op) s _ rfl (by simp) (by simp) (.inl rfl)

/-- The steps of the machine (R60). -/
inductive MachineStep : State → State → Prop
  /-- the HANDLER services the captured cycle (R98) -/
  | service (i : Instr) (s t : State) : s.wait = true → s.excl = false → decodeBus s.fetchWord = .ok i →
    exec i s = .next t → MachineStep s t
  /-- the HOST presents a cycle (R97) -/
  | present (c : BusCycle) (rest : List HostEvent) (s : State) : s.wait = false → s.hostEvents = .cycle c :: rest →
    MachineStep s (presentCycle c { s with hostEvents := rest })
  /-- the dispatcher's turn, at a boundary at which the HOST presents nothing -/
  | quiet (rest : List HostEvent) (s t : State) : s.wait = false → s.hostEvents = .quiet :: rest →
    dispatcherTurn { s with hostEvents := rest } = .next t → MachineStep s t
  /-- the dispatcher's turn, with no host event to use up -/
  | dispatcher (s t : State) : (s.wait = true → s.excl = true) → dispatcherTurn s = .next t → MachineStep s t

/-- With no host event left there is none to use up. -/
theorem takeEvent_nil {s : State} (h : s.hostEvents = []) : takeEvent s = s := by
  unfold takeEvent
  split
  · rfl
  · cases s
    subst h
    rfl

/-- Every step of the machine is of one of the kinds above. -/
theorem machineStep_of_step {s t : State} (h : step s = .next t) : MachineStep s t := by
  have hn : nextTurn s = if s.wait then (if s.excl then .dispatcher else .service) else
      match s.hostEvents with
      | .cycle c :: _ => .present c
      | .quiet :: _ => .dispatcher
      | [] => .dispatcher := rfl
  unfold step at h
  cases hw : s.wait with
  | true =>
    cases he : s.excl with
    | true =>
      have hd : nextTurn s = .dispatcher := by simp [hn, hw, he]
      have ht : takeEvent s = s := by simp [takeEvent, hw]
      rw [hd] at h
      simp only [ht] at h
      exact .dispatcher s t (fun _ => he) h
    | false =>
      have hd : nextTurn s = .service := by simp [hn, hw, he]
      rw [hd] at h
      simp only [serviceTurn] at h
      split at h
      · exact .service _ s t hw he ‹_› h
      · cases h
  | false =>
    have hq : s.wait = true → s.excl = true := by simp [hw]
    cases hh : s.hostEvents with
    | nil =>
      have hd : nextTurn s = .dispatcher := by simp [hn, hw, hh]
      have ht : takeEvent s = s := takeEvent_nil hh
      rw [hd] at h
      simp only [ht] at h
      exact .dispatcher s t hq h
    | cons e rest =>
      have ht : takeEvent s = { s with hostEvents := rest } := by simp [takeEvent, hw, hh]
      cases e with
      | cycle c =>
        have hd : nextTurn s = .present c := by simp [hn, hw, hh]
        rw [hd] at h
        simp only [ht] at h
        cases h
        exact .present c rest s hw hh
      | quiet =>
        have hd : nextTurn s = .dispatcher := by simp [hn, hw, hh]
        rw [hd] at h
        simp only [ht] at h
        exact .quiet rest s t hw hh h

/-- A run whose first step is known. -/
theorem run_succ {s t : State} (n : Nat) (h : step s = .next t) : Host.Core.run core (n + 1) s = Host.Core.run core n t := by
  have h' : core.step s = .next t := h
  simp only [Host.Core.run, h']

/-- With the HOST quiet every step is the dispatcher's. -/
theorem step_quiet {s : State} (hw : s.wait = false) (hh : s.hostEvents = []) : step s = dispatcherTurn s := by
  have ht : takeEvent s = s := takeEvent_nil hh
  simp [step, nextTurn, hw, hh, ht]

/-- Where the dispatcher has the turn, the step is its (R60 to R62). -/
theorem step_hasTurn {s : State} {es : List HostEvent} (h : DispatcherHasTurn s es) :
    step s = dispatcherTurn { s with hostEvents := es } := by
  rcases h with ⟨hw, hh, rfl⟩ | ⟨hw, hh⟩ | ⟨hw, he, rfl⟩
  · rw [← hh]
    exact step_quiet hw hh
  · simp [step, nextTurn, takeEvent, hw, hh]
  · show step s = dispatcherTurn s
    simp [step, nextTurn, takeEvent, hw, he]

/-- Where a captured cycle is serviced next, the step is the handler's (R98, R104). -/
theorem step_service {s : State} (hw : s.wait = true) (he : s.excl = false) : step s = serviceTurn s := by
  simp [step, nextTurn, hw, he]

/-- The dispatcher's turn, by DSTATE (R145). -/
theorem dispatcherTurn_cases {s t : State} (h : dispatcherTurn s = .next t) :
    (s.dstate = .idle ∧ s.pending = false ∧ t = s) ∨ (s.dstate = .idle ∧ s.pending = true ∧ t = entryStep s) ∨
      (s.dstate = .decoding ∧ t = dispatchStep s) ∨
      (s.dstate = .executing ∧ exec (decodeCommand s.xcmd) s = .next t) := by
  unfold dispatcherTurn at h
  split at h
  · cases h
    unfold pollStep
    split
    · exact .inr (.inl ⟨‹_›, ‹_›, rfl⟩)
    · exact .inl ⟨‹_›, by simpa using ‹¬ s.pending = true›, rfl⟩
  · cases h
    exact .inr (.inr (.inl ⟨‹_›, rfl⟩))
  · exact .inr (.inr (.inr ⟨‹_›, h⟩))

/-- Only disk commands have an opcode. -/
theorem decodeCommand_isBus (op : Opcode) : (decodeCommand op).isBus = false := by
  unfold decodeCommand
  repeat' split
  all_goals rfl

/-- The word the service step decodes is that of a selected cycle, and decodes (R85). -/
theorem decodeBus_ok {w : TransWord} (h : selectedOffset (wordOffset w) = true) :
    ∃ i, decodeBus w = .ok i ∧ i.isBus = true := by
  unfold decodeBus
  rw [if_pos h]
  refine ⟨_, rfl, ?_⟩
  unfold decodeWrite decodeRead decodeTrigger
  repeat' split
  all_goals rfl

/-! ## What Reset, Format's fill and Reopen leave alone -/

/-- Reset's step, field by field, but for STATUS, DRV and DISK (R166). -/
theorem resetStep_frame (s : State) :
    (resetStep s).viol = s.viol ∧ (resetStep s).overrun = s.overrun ∧ (resetStep s).cur = s.cur ∧
      (resetStep s).fifo = s.fifo ∧ (resetStep s).capOff = s.capOff ∧ (resetStep s).capData = s.capData ∧
      (resetStep s).capDir = s.capDir ∧ (resetStep s).wait = s.wait ∧ (resetStep s).dbdir = s.dbdir ∧
      (resetStep s).hostEvents = s.hostEvents ∧ (resetStep s).reads = s.reads ∧ (resetStep s).xstep = s.xstep ∧
      (resetStep s).xcmd = s.xcmd ∧ (resetStep s).xdrv = s.xdrv ∧ (resetStep s).storeStuck = s.storeStuck ∧
      (resetStep s).excl = false ∧ (resetStep s).dstate = .idle ∧ (resetStep s).pending = false ∧
      (resetStep s).rerun = false ∧ (resetStep s).tf = TaskFile.zero := by
  have h : StoreFrame (reinitControl { s with excl := true }) (reinit { s with excl := true }) := storeFrame_reinit _
  simp only [resetStep, critical, finish_eq, State.setPattern]
  generalize reinit { s with excl := true } = u at h ⊢
  refine ⟨h.viol, h.overrun, h.cur, h.fifo, h.capOff, h.capData, h.capDir, h.wait, h.dbdir, h.hostEvents, h.reads,
    h.xstep, h.xcmd, h.xdrv, h.storeStuck, trivial, trivial, ?_, trivial, h.tf⟩
  rw [h.rerun]
  rfl

/-- Format's fill touches the selected drive's file and the error bit, and nothing else (R169). -/
theorem fillStep_frame (s : State) :
    StoreFrame { s with xstep := .s5 } (fillStep s) ∧ DriveFrame s.xdrv s (fillStep s) := by
  have h := (storeFrame_storeSeek s.xdrv (s.drv.get s.xdrv).byteOffset s).trans
    (storeFrame_fillTrack s.xdrv (fillChunks (s.drv.get s.xdrv).trackLength Config.fillChunk) _)
  have k := (driveFrame_storeSeek s.xdrv (s.drv.get s.xdrv).byteOffset s).trans
    (driveFrame_fillTrack s.xdrv (fillChunks (s.drv.get s.xdrv).trackLength Config.fillChunk) _)
  exact ⟨⟨h.hold, h.tf, h.sel, h.pending, h.rerun, h.viol, h.overrun, h.excl, h.cur, h.fifo, h.dstate, rfl, h.xcmd,
    h.xdrv, h.capOff, h.capData, h.capDir, h.wait, h.dbdir, h.hostEvents, h.reads, h.storeStuck, h.pattern⟩,
    ⟨k.others, k.descriptor, k.media⟩⟩

/-- Reopen touches the drive's ready flag, its file's handle and the error bit, and nothing else (R152). -/
theorem reopenStep_frame (s : State) :
    StoreFrame { s with xstep := .s6 } (reopenStep s) ∧ DriveFrame s.xdrv s (reopenStep s) := by
  have h := storeFrame_reopen s.xdrv s
  have k := driveFrame_reopen s.xdrv s
  exact ⟨⟨h.hold, h.tf, h.sel, h.pending, h.rerun, h.viol, h.overrun, h.excl, h.cur, h.fifo, h.dstate, rfl, h.xcmd,
    h.xdrv, h.capOff, h.capData, h.capDir, h.wait, h.dbdir, h.hostEvents, h.reads, h.storeStuck, h.pattern⟩,
    ⟨k.others, k.descriptor, k.media⟩⟩

end Sys2Proof.Machine
end

