-- ==== Sys2Proof/Tests/Slice0.lean ====
section
/-! SUPPORT. Tests: the WellFormed smoke, one written-out word per constructor, at most two one-step tests per instruction
(expected values from spec/95_test_vectors.md, named V-…), and for every statement with hypotheses a witness that meets
them. -/

open Sys2Proof Sys2Proof.Machine

namespace Sys2Proof.Tests

/-! ## WellFormed refuses ill-formed terms: offsets with a row of their own, offsets outside the window, named opcodes -/

theorem test_illformed_rdx_exact_rows : (Instr.rdx 0).wellFormed = false ∧ (Instr.rdx 4).wellFormed = false ∧
    (Instr.rdx 8).wellFormed = false := by decide
theorem test_illformed_rdx_outside : (Instr.rdx 16).wellFormed = false ∧ (Instr.rdx 0xFF).wellFormed = false := by decide
theorem test_illformed_wrx_exact_rows : (Instr.wrx 0 1).wellFormed = false ∧ (Instr.wrx 3 1).wellFormed = false ∧
    (Instr.wrx 8 1).wellFormed = false := by decide
theorem test_illformed_wrx_outside : (Instr.wrx 16 1).wellFormed = false := by decide
theorem test_illformed_unknown_named : (Instr.unknown 0x00).wellFormed = false ∧
    (Instr.unknown 0x01).wellFormed = false ∧ (Instr.unknown 0x02).wellFormed = false ∧
    (Instr.unknown 0x08).wellFormed = false ∧ (Instr.unknown 0x0B).wellFormed = false ∧
    (Instr.unknown 0x10).wellFormed = false := by decide

/-! ## One word per constructor, written out from R71 and R83 (table V-TW), bytes least significant first (log 23) -/

theorem test_decode_rd0 : decode [0x00, 0x00, 0x00] = .ok .rd0 := by decide
theorem test_decode_wr0cmd : decode [0x82, 0x00, 0x01] = .ok (.wr0cmd 0x02) := by decide
theorem test_decode_wr0par : decode [0x7F, 0x00, 0x01] = .ok (.wr0par 0x7F) := by decide
theorem test_decode_wr1 : decode [0x03, 0x01, 0x01] = .ok (.wr1 0x03) := by decide
theorem test_decode_wr2 : decode [0xA7, 0x02, 0x01] = .ok (.wr2 0xA7) := by decide
theorem test_decode_wr3 : decode [0x02, 0x03, 0x01] = .ok (.wr3 0x02) := by decide
theorem test_decode_wr4 : decode [0xFF, 0x04, 0x01] = .ok (.wr4 0xFF) := by decide
theorem test_decode_rd1 : decode [0x00, 0x01, 0x00] = .ok .rd1 := by decide
theorem test_decode_rd2 : decode [0x00, 0x02, 0x00] = .ok .rd2 := by decide
theorem test_decode_rd3 : decode [0x00, 0x03, 0x00] = .ok .rd3 := by decide
theorem test_decode_rd4 : decode [0x00, 0x04, 0x00] = .ok .rd4 := by decide
theorem test_decode_rd8 : decode [0x00, 0x08, 0x00] = .ok .rd8 := by decide
theorem test_decode_wr8 : decode [0xE5, 0x08, 0x01] = .ok (.wr8 0xE5) := by decide
theorem test_decode_rdx : decode [0x00, 0x05, 0x00] = .ok (.rdx 5) ∧ decode [0x00, 0x09, 0x00] = .ok (.rdx 9) := by
  decide
theorem test_decode_wrx : decode [0x12, 0x0F, 0x01] = .ok (.wrx 0x0F 0x12) := by decide
theorem test_decode_not_selected : decode [0x00, 0x10, 0x00] = .error .notSelected ∧
    decode [0x00, 0x10, 0x01] = .error .notSelected := by decide
theorem test_decode_wide_word : decode [0x00, 0x00, 0x02] = .error .wideWord := by decide
theorem test_decode_bad_length : decode [] = .error .badLength ∧ decode [0, 0] = .error .badLength := by decide

/-- Command bytes as the HOST writes them, bit 7 set (R76). -/
theorem test_decode_commands : decode [0x80] = .ok .reset ∧ decode [0x81] = .ok .read ∧ decode [0x82] = .ok .write ∧
    decode [0x88] = .ok .format ∧ decode [0x8B] = .ok .fifo ∧ decode [0x90] = .ok .params ∧
    decode [0xFF] = .ok (.unknown 0x7F) ∧ decode [0x83] = .ok (.unknown 0x03) := by decide

/-- Words numbered as the opcode table numbers them. -/
theorem test_table_words : decodeTableWord 24 0x10F12 = some (.wrx 0x0F 0x12) ∧
    decodeTableWord 17 0x10082 = some (.wr0cmd 0x02) ∧ decodeTableWord 24 0x11000 = none ∧
    decodeTableWord 8 0x0B = some .fifo ∧ decodeTableWord 7 0x7F = some (.unknown 0x7F) := by decide

/-! ## Test states -/

/-- Drive 0 at cylinder 1, head 2, sector 3, one sector (V-OFF-7). -/
def drive0 : Drive :=
  { Drive.fresh (Config.geom 0) true with curCyl := 1, curHead := 2, curSec := 3, curSize := 256, xfer := 1 }

/-- A present, open, writable file of drive 0's size, as the platform left it. -/
def file0 : DiskFile := { media := true, isOpen := true, roHandle := false, pos := 0, len := 83558400, bytes := [] }

/-- An idle machine with a stale error bit and a moved cursor. -/
def calm : State :=
  { State.reset with
    hold := ⟨0x55, 0x03, 0xA7, 0x02⟩
    status := 0x11
    cur := 3
    fifo := [(0, 0x11), (1, 0x22), (2, 0x33), (3, 0x44)]
    xcmd := 0x7F
    xdrv := 0
    capOff := 0
    capData := 0
    capDir := .read
    drv := ⟨drive0, Drive.fresh (Config.geom 1) false, Drive.fresh (Config.geom 2) false,
      Drive.fresh (Config.geom 3) true⟩
    disk := ⟨file0, DiskFile.powerOn 1 false, DiskFile.powerOn 2 false, file0⟩ }

/-- The same machine at a step of a command, the STORE's answers scripted. -/
def running (op : Opcode) (x : CmdStep) (answers : List StoreAnswer) : State :=
  { calm with dstate := .executing, pending := true, status := 0x10, xcmd := op, xstep := x, storeAnswers := answers }

/-- The same machine with drive 0 at another address. -/
def runningAt (op : Opcode) (c : BitVec 16) (h n : Byte) : State :=
  { running op .s3 [] with drv := calm.drv.set 0 { drive0 with curCyl := c, curHead := h, curSec := n } }

/-- The same machine with a cycle captured and awaiting service. -/
def captured (off data : Byte) (dir : BusDir) : State :=
  { calm with capOff := off, capData := data, capDir := dir, wait := true }

/-- What a test looks at in the outcome of one step; `none` where the machine stopped. -/
def seen {α : Type} (f : State → α) : Host.Outcome State Fault Refusal → Option α
  | .next t => some (f t)
  | .fault _ => none
  | .refused _ => none

/-! ## Bus transactions, one service step each (V-REG, V-ST, V-FIFO) -/

theorem test_rd0_returns_status : seen (fun t => (t.reads, t.status, t.wait, t.dbdir)) (step (captured 0 0xEE .read)) =
    some ([0x11], 0x11, false, .input) := by decide
theorem test_wr1_stores : seen (fun t => (t.hold, t.wait)) (step (captured 1 0x33 .write)) =
    some (⟨0x55, 0x33, 0xA7, 0x02⟩, false) := by decide
theorem test_wr2_stores : seen (fun t => (t.hold, t.status)) (step (captured 2 0x7F .write)) =
    some (⟨0x55, 0x03, 0x7F, 0x02⟩, 0x11) := by decide
theorem test_wr3_stores : seen (fun t => (t.hold, t.tf)) (step (captured 3 0x01 .write)) =
    some (⟨0x55, 0x03, 0xA7, 0x01⟩, TaskFile.zero) := by decide
/-- V-REG-7. -/
theorem test_wr4_ignores_data : seen (fun t => (t.cur, t.fifo)) (step (captured 4 0xFF .write)) =
    some (0, calm.fifo) := by decide
/-- V-REG-5: the FIFO status offset is inert. -/
theorem test_rd4_keeps_cursor : seen (fun t => (t.cur, t.reads.length)) (step (captured 4 0 .read)) =
    some (3, 1) := by decide
/-- V-REG-4: not HOLD's value. -/
theorem test_rd2_is_no_readback : seen (fun t => t.reads) (step (captured 2 0 .read)) =
    some [Config.reservedReadByte 0] := rfl
theorem test_rd1_one_byte : seen (fun t => (t.hold, t.reads.length)) (step (captured 1 0 .read)) =
    some (calm.hold, 1) := by decide
theorem test_rd3_one_byte : seen (fun t => (t.hold, t.reads.length)) (step (captured 3 0 .read)) =
    some (calm.hold, 1) := by decide
/-- V-REG-9. -/
theorem test_rdx_one_byte : seen (fun t => (t.cur, t.reads.length)) (step (captured 15 0 .read)) = some (3, 1) := by
  decide
/-- V-REG-8. -/
theorem test_wrx_ignored : seen (fun t => (t.hold, t.cur, t.reads)) (step (captured 9 0x55 .write)) =
    some (calm.hold, 3, []) := by decide
/-- V-FIFO-3: reads and writes share the cursor. -/
theorem test_rd8_reads_and_advances : seen (fun t => (t.reads, t.cur)) (step (captured 8 0 .read)) =
    some ([0x44], 4) := by decide +kernel
/-- V-FIFO-1. -/
theorem test_wr8_stores_and_advances : seen (fun t => (t.fifo.read? 3, t.fifo.read? 2, t.cur))
    (step (captured 8 0x5A .write)) = some (some 0x5A, some 0x33, 4) := by decide +kernel
/-- V-ST-1, with a stale error bit (V-ST-5): Read, drive 3, cylinder 679. -/
theorem test_wr0cmd_commits : seen (fun t => (t.tf, t.sel, t.status, t.pending)) (step (captured 0 0x81 .write)) =
    some (⟨0x81, 0x03, 0xA7, 0x02, 0, 0, 0, 0⟩, 3, 0x31, false) := by decide
/-- V-ST-4: Read parameters leaves SEL alone. -/
theorem test_wr0cmd_params_keeps_sel : seen (fun t => (t.tf.command, t.sel)) (step (captured 0 0x90 .write)) =
    some (0x90, 0) := by decide
/-- V-ST-10. -/
theorem test_wr0par_starts : seen (fun t => (t.tf.sector, t.tf.head, t.tf.count, t.tf.spare, t.pending, t.status))
    (step (captured 0 0x05 .write)) = some (0x05, 0x03, 0xA7, 0x02, true, 0x11) := by decide
/-- V-ST-8: a non-Reset command is pending. -/
theorem test_wr0par_violation : seen (fun t => (t.viol, t.rerun, t.pending, t.status))
    (step { captured 0 0x01 .write with pending := true, tf := { TaskFile.zero with command := 0x81 } }) =
    some (true, false, true, 0x21) := by decide

/-! ## Disk commands, one dispatcher step each -/

/-- V-VAL-3: cylinder 680 fails; the pattern stays, the error bit is set, no Store request. -/
theorem test_read_rejects_cylinder : seen (fun t => (t.status, t.pending, t.dstate, t.storeReqs))
    (step (runningAt 0x01 680 0 0)) = some (0x11, false, .idle, 4) := by decide
/-- V-RD-6's shape: a short read of 2 bytes fills FIFO[0 .. 1] and sets the error bit. -/
theorem test_read_short : seen (fun t => (t.fifo, t.cur, t.status, t.storeReqs))
    (execRead { running 0x01 .s4 [.free true [0x0A, 0x0B] 0] with
      drv := calm.drv.set 0 { drive0 with curSize := 0x10 } }) =
    some ([(0, 0x0A), (1, 0x0B), (2, 0x33), (3, 0x44)], 3, 0x11, 6) := by decide +kernel
/-- V-VAL-6: head 15 fails. -/
theorem test_write_rejects_head : seen (fun t => (t.status, t.dstate)) (step (runningAt 0x02 0 15 0)) =
    some (0x11, .idle) := by decide
/-- V-REO-2: two opens, ready. -/
theorem test_write_reopens : seen (fun t => (t.storeReqs, (t.drv.get 0).ready, t.status))
    (step (running 0x02 .s5 [.free false [] 0, .free true [] 0])) = some (7, true, 0x10) := by decide
/-- V-FMT-3: sector 40 is forced to 0. -/
theorem test_format_ignores_sector : seen (fun t => ((t.drv.get 0).curSec, t.xstep, t.status))
    (step (runningAt 0x08 0 0 40)) = some (0, .s4, 0x10) := by decide
/-- V-REO-4: ten opens, no eleventh; the error bit. -/
theorem test_format_gives_up : seen (fun t => (t.storeReqs, (t.drv.get 0).ready, t.status, t.storeAnswers))
    (step (running 0x08 .s5 (List.replicate 11 (.free false [] 0)))) =
    some (15, false, 0x11, [.free false [] 0]) := by decide
/-- V-AF-3: the cursor, and the error bit neither set nor cleared. -/
theorem test_fifo_resets_cursor : seen (fun t => (t.cur, t.status, t.pending, t.dstate))
    (step { running 0x0B .s3 [] with status := 0x11 }) = some (0, 0x21, false, .idle) := by decide
/-- V-PAR-1: 108 bytes from index 0, the cursor unchanged. -/
theorem test_params_emits_table : seen (fun t => (t.fifo.length, (t.fifo.map Prod.fst).getLast?, t.cur, t.xstep))
    (step (running 0x10 .s3 [])) = some (108, some 107, 3, .s4) := by decide +kernel
/-- V-UNK-3: the stale error bit is kept. -/
theorem test_unknown_completes : seen (fun t => (t.status, t.fifo, t.dstate))
    (step { running 0x7F .s3 [] with status := 0x11 }) = some (0x61, calm.fifo, .idle) := by decide
/-- V-RST-1. -/
theorem test_reset_reinitialises : seen (fun t => (t.status, t.hold, t.tf, t.cur, t.storeReqs, t.pending))
    (step (running 0x00 .s3 [.free true [] 0, .free true [] 0])) =
    some (0x00, ⟨0, 0, 0, 0⟩, TaskFile.zero, 3, 8, false) := by decide
/-- V-RST-5: both files missing; and R32: drive 1, opened by an earlier reopen, is closed by a fifth request. -/
theorem test_reset_media_absent :
    seen (fun t => (t.status, (t.drv.get 0).ready, (t.drv.get 3).ready, (t.disk.get 1).isOpen, t.storeReqs, t.dstate))
      (step { running 0x00 .s3 [.free false [] 0, .free false [] 0] with disk := calm.disk.set 1 file0 }) =
    some (0x01, false, false, false, 9, .idle) := by decide
/-- R55: the reference store accepts nothing past the end, and the file does not grow; the accepted last byte is kept. -/
theorem test_store_write_at_end :
    ((storeWrite 0 [0xAA] { running 0x02 .s4 [.reference] with
      disk := calm.disk.set 0 { file0 with pos := 300, len := 256 } }).disk.get 0) = { file0 with pos := 300, len := 256 } ∧
    ((storeWrite 0 [0xAA, 0xBB] { running 0x02 .s4 [.reference] with
      disk := calm.disk.set 0 { file0 with pos := 255, len := 256 } }).disk.get 0) =
      { file0 with pos := 256, len := 256, bytes := [(255, 0xAA)] } := by decide

/-! ## Entry, offsets, interleaving -/

/-- V-DEC-1 and V-DEC-3. -/
theorem test_entry_decodes : seen (fun t => (t.xcmd, t.drv.get 0, t.pending, t.dstate)) (step { calm with
      pending := true, tf := ⟨0x81, 0x00, 0xA7, 0x02, 14, 31, 0, 0⟩ }) =
    some (0x01, { drive0 with curCyl := 679, curHead := 14, curSec := 31 }, true, .decoding) := rfl
/-- V-OFF-7 and V-OFF-10. -/
theorem test_offsets : drive0.byteOffset = 140032 ∧
    ({ drive0 with curCyl := 679, curHead := 14, curSec := 31 } : Drive).byteOffset = 83558144 := by decide
/-- V-ARB-2: a cycle captured while EXCL = 1 waits; the dispatcher goes on. -/
theorem test_exclusion_defers_service : seen (fun t => (t.reads, t.wait, t.dstate))
    (step { running 0x7F .s3 [] with excl := true, wait := true }) = some ([], true, .idle) := by decide

/-! ## Witnesses: for every statement with hypotheses, states and operands that meet them -/

theorem witness_DecodeEncodeEveryInstruction : (Instr.rdx 5).wellFormed = true ∧ (Instr.rdx 15).wellFormed = true ∧
    (Instr.wrx 9 0).wellFormed = true ∧ (Instr.unknown 0x7F).wellFormed = true := by decide
theorem witness_EncodeDecodeEveryWord : decodeBus 0x10F12#17 = .ok (.wrx 0x0F 0x12) ∧
    16 ≤ (wordOffset 0x11000#17).toNat := by decide
theorem witness_EveryWordFitsItsTableRow : (wordOffset 0x10F12#17).toNat < 16 ∧ (wordOffset 0x00000#17).toNat < 16 := by
  decide
theorem witness_OpcodeMapSixNamedRestUnknown : namedOpcode 0x03 = false ∧ namedOpcode 0x7F = false := by decide
theorem witness_StepServicesCapturedTransaction : (captured 15 0x12 .write).wait = true ∧
    (captured 15 0x12 .write).excl = false ∧ decodeBus (captured 15 0x12 .write).fetchWord = .ok (.wrx 15 0x12) := by
  decide
theorem witness_StepRunsFetchedCommand_idle_host : (running 0x01 .s3 []).wait = false ∧
    (running 0x01 .s3 []).hostEvents = [] ∧ (running 0x01 .s3 []).dstate = .executing := by decide
theorem witness_StepRunsFetchedCommand_quiet : ∃ (s : State) (rest : List HostEvent), s.wait = false ∧
    s.hostEvents = .quiet :: rest ∧ s.dstate = .executing :=
  ⟨{ running 0x01 .s3 [] with hostEvents := [.quiet] }, [], rfl, rfl, rfl⟩
theorem witness_StepRunsFetchedCommand_excluded : ∃ s : State, s.wait = true ∧ s.excl = true ∧
    s.dstate = .executing := ⟨{ running 0x01 .s3 [] with wait := true, excl := true }, rfl, rfl, rfl⟩
theorem witness_PlacedTransactionRunsNext : (Instr.rdx 15).isBus = true ∧ (Instr.rdx 15).wellFormed = true := by decide

/-- The last address of the window. -/
theorem witness_CaptureLatchesCycleAndStalls : ∃ (s : State) (addr data : Byte) (dir : BusDir) (rest : List HostEvent),
    s.wait = false ∧ s.hostEvents = .cycle (BusCycle.atPort addr dir data) :: rest ∧
    (addr - Config.basePort).toNat < 16 :=
  ⟨{ calm with hostEvents := [.cycle (BusCycle.atPort (Config.basePort + 15) .write 0x12)] }, Config.basePort + 15, 0x12,
    .write, [], rfl, rfl, by
      have h : ∀ b : Byte, (b + 15 - b).toNat < 16 := by decide
      exact h _⟩
/-- The first address past the window. -/
theorem witness_UnselectedCycleChangesNothing : ∃ (s : State) (addr data : Byte) (dir : BusDir) (rest : List HostEvent),
    s.wait = false ∧ s.hostEvents = .cycle (BusCycle.atPort addr dir data) :: rest ∧
    16 ≤ (addr - Config.basePort).toNat :=
  ⟨{ calm with hostEvents := [.cycle (BusCycle.atPort (Config.basePort + 16) .write 0x12)] }, Config.basePort + 16, 0x12,
    .write, [], rfl, rfl, by
      have h : ∀ b : Byte, 16 ≤ (b + 16 - b).toNat := by decide
      exact h _⟩
/-- With no host event left, and at a quiet boundary. -/
theorem witness_EntryStepSnapshotsTaskFile :
    (∃ s : State, DispatcherHasTurn s [] ∧ s.dstate = .idle ∧ s.pending = true) ∧
    (∃ s : State, DispatcherHasTurn s [.quiet] ∧ s.dstate = .idle ∧ s.pending = true) :=
  ⟨⟨{ calm with pending := true }, .inl ⟨rfl, rfl, rfl⟩, rfl, rfl⟩,
    ⟨{ calm with pending := true, hostEvents := [.quiet, .quiet] }, .inr (.inl ⟨rfl, rfl⟩), rfl, rfl⟩⟩
/-- At a quiet boundary, and with a captured cycle shut out. -/
theorem witness_DispatchStepStartsTheCommand :
    (∃ s : State, DispatcherHasTurn s [] ∧ s.dstate = .decoding) ∧
    (∃ s : State, DispatcherHasTurn s [.quiet] ∧ s.wait = true ∧ s.dstate = .decoding) :=
  ⟨⟨{ calm with pending := true, dstate := .decoding, hostEvents := [.quiet] }, .inr (.inl ⟨rfl, rfl⟩), rfl⟩,
    ⟨{ calm with pending := true, dstate := .decoding, hostEvents := [.quiet], wait := true, excl := true },
      .inr (.inr ⟨rfl, rfl, rfl⟩), rfl, rfl⟩⟩
theorem witness_IdleDispatcherChangesNothing : calm.wait = false ∧ calm.hostEvents = [] ∧ calm.dstate = .idle ∧
    calm.pending = false := by decide
theorem witness_IdleDispatcherChangesNothing_excluded : ∃ s : State, s.wait = true ∧ s.excl = true ∧
    s.dstate = .idle ∧ s.pending = false := ⟨{ calm with wait := true, excl := true }, rfl, rfl, rfl, rfl⟩
theorem witness_IdleDispatcherChangesNothing_quiet : ∃ (s : State) (rest : List HostEvent), s.wait = false ∧
    s.hostEvents = .quiet :: rest ∧ s.dstate = .idle ∧ s.pending = false :=
  ⟨{ calm with hostEvents := [.quiet, .quiet] }, [.quiet], rfl, rfl, rfl, rfl⟩

theorem witness_ReservedReadsHaveNoSideEffect : ∃ (i : Instr) (off : Byte),
    i = .rd1 ∨ i = .rd2 ∨ i = .rd3 ∨ i = .rd4 ∨ i = .rdx off := ⟨.rdx 5, 5, by decide⟩
theorem witness_HoldingWritesStoreTheirByte : ∃ (i : Instr) (j : Slot) (data : Byte),
    (i = .wr1 data ∧ j = 1) ∨ (i = .wr2 data ∧ j = 2) ∨ (i = .wr3 data ∧ j = 3) := ⟨.wr3 0xFF, 3, 0xFF, by decide⟩
/-- Both clauses on the opcode. -/
theorem witness_CommandBurstCommitsHolding : seen (fun t => t.sel) (exec (.wr0cmd 0x10) calm) = some calm.sel ∧
    seen (fun t => t.sel) (exec (.wr0cmd 0x0F) calm) = some 3 := by decide
/-- The three clauses on PENDING and the committed opcode: none pending, a Reset, another command. -/
theorem witness_ParameterBurstStartsOrRejects : calm.pending = false ∧
    (running 0x01 .s3 []).pending = true ∧ low7 (running 0x01 .s3 []).tf.command = 0x00 ∧
    low7 ({ running 0x01 .s3 [] with tf := { TaskFile.zero with command := 0x81 } } : State).tf.command ≠ 0x00 := by decide
theorem lastSlot_lt : Config.fifoSlack + 65279 < Config.fifoCap := by
  unfold Config.fifoCap
  exact Nat.add_lt_add_left (by decide) _
/-- The last free slot of the FIFO. -/
theorem witness_DataReadReturnsByteAtCursor : ∃ s : State, s.cur < Config.fifoCap :=
  ⟨{ calm with cur := Config.fifoSlack + 65279 }, lastSlot_lt⟩
/-- The last free slot of the FIFO. -/
theorem witness_DataWriteStoresByteAtCursor : ∃ s : State, s.cur < Config.fifoCap :=
  ⟨{ calm with cur := Config.fifoSlack + 65279 }, lastSlot_lt⟩
theorem witness_DataPortClampsAtCapacity : ∃ s : State, s.cur = Config.fifoCap :=
  ⟨{ calm with cur := Config.fifoCap }, rfl⟩
theorem witness_EveryTransactionReleasesTheBus : (Instr.wrx 15 0).isBus = true ∧ Instr.rd8.isBus = true := by decide

/-- Each of the four ways to fail, at its boundary (V-VAL-3, V-VAL-6, V-VAL-7, V-VAL-9). -/
theorem witness_FailedValidationAbortsReadWrite :
    (∃ s : State, s.xstep = .s3 ∧ (s.drv.get s.xdrv).cyls.toNat ≤ (s.drv.get s.xdrv).curCyl.toNat) ∧
    (∃ s : State, s.xstep = .s3 ∧ (s.drv.get s.xdrv).heads.toNat ≤ (s.drv.get s.xdrv).curHead.toNat) ∧
    (∃ s : State, s.xstep = .s3 ∧ (s.drv.get s.xdrv).spt.toNat ≤ (s.drv.get s.xdrv).curSec.toNat) ∧
    (∃ s : State, s.xstep = .s3 ∧ (s.drv.get s.xdrv).curSize ≠ (s.drv.get s.xdrv).secsize) :=
  ⟨⟨runningAt 0x01 680 14 31, by decide⟩, ⟨runningAt 0x01 679 15 31, by decide⟩,
    ⟨runningAt 0x02 679 14 32, by decide⟩,
    ⟨{ running 0x02 .s3 [] with drv := calm.drv.set 0 { drive0 with secsize := 512 } }, by decide⟩⟩
/-- The largest valid address (V-VAL-2). -/
theorem witness_PassedValidationClearsError : ∃ s : State, s.xstep = .s3 ∧
    (s.drv.get s.xdrv).curCyl.toNat < (s.drv.get s.xdrv).cyls.toNat ∧
    (s.drv.get s.xdrv).curHead.toNat < (s.drv.get s.xdrv).heads.toNat ∧
    (s.drv.get s.xdrv).curSec.toNat < (s.drv.get s.xdrv).spt.toNat ∧
    (s.drv.get s.xdrv).curSize = (s.drv.get s.xdrv).secsize := ⟨runningAt 0x01 679 14 31, by decide⟩
/-- A passing and a failing address, the sector out of range in both (V-FMT-3, V-FMT-4), and a drive without sectors. -/
theorem witness_FormatValidationIgnoresSector :
    (∃ s : State, s.xstep = .s3 ∧ 0 < (s.drv.get s.xdrv).spt.toNat ∧
      (s.drv.get s.xdrv).curCyl.toNat < (s.drv.get s.xdrv).cyls.toNat ∧
      (s.drv.get s.xdrv).curHead.toNat < (s.drv.get s.xdrv).heads.toNat ∧
      (s.drv.get s.xdrv).curSize = (s.drv.get s.xdrv).secsize) ∧
    (∃ s : State, s.xstep = .s3 ∧ 0 < (s.drv.get s.xdrv).spt.toNat ∧
      (s.drv.get s.xdrv).heads.toNat ≤ (s.drv.get s.xdrv).curHead.toNat) ∧
    (∃ s : State, s.xstep = .s3 ∧ (s.drv.get s.xdrv).spt.toNat = 0 ∧
      (s.drv.get s.xdrv).curCyl.toNat < (s.drv.get s.xdrv).cyls.toNat) :=
  ⟨⟨runningAt 0x08 679 14 40, by decide⟩, ⟨runningAt 0x08 679 15 40, by decide⟩,
    ⟨{ running 0x08 .s3 [] with drv := calm.drv.set 0 { drive0 with spt := 0 } }, by decide⟩⟩
theorem witness_CompletionWritesPatternAndFinishes : (running 0x01 .s5 []).xstep = .s5 ∧
    (running 0x02 .s6 []).xstep = .s6 ∧ (running 0x08 .s6 []).xstep = .s6 ∧ (running 0x10 .s4 []).xstep = .s4 := by
  decide
theorem witness_ResetCommandReinitialises : ∃ (s : State) (a b : StoreAnswer) (rest : List StoreAnswer),
    s.storeStuck = false ∧ s.storeAnswers = a :: b :: rest :=
  ⟨running 0x00 .s3 [.reference, .free false [] 0], .reference, .free false [] 0, [], rfl, rfl⟩
theorem witness_ReadAnswerComesFromTheFile_closed : ∃ s : State, (s.disk.get s.xdrv).isOpen = false :=
  ⟨{ calm with xdrv := 1 }, rfl⟩
theorem witness_ReadAnswerComesFromTheFile_open : ∃ (s : State) (rest : List StoreAnswer),
    (s.disk.get s.xdrv).isOpen = true ∧ s.storeAnswers = .reference :: rest :=
  ⟨running 0x01 .s4 [.reference], [], rfl, rfl⟩
/-- An open writable handle, and an open read-only one. -/
theorem witness_WriteTransferStoresFifo_reference :
    (∃ (s : State) (rest : List StoreAnswer), (s.disk.get s.xdrv).isOpen = true ∧ s.storeAnswers = .reference :: rest ∧
      (s.disk.get s.xdrv).roHandle = false) ∧
    (∃ (s : State) (rest : List StoreAnswer), (s.disk.get s.xdrv).isOpen = true ∧ s.storeAnswers = .reference :: rest ∧
      (s.disk.get s.xdrv).roHandle = true) :=
  ⟨⟨running 0x02 .s4 [.reference], [], rfl, rfl, rfl⟩,
    ⟨{ running 0x02 .s4 [.reference] with disk := calm.disk.set 0 { file0 with roHandle := true } }, [], rfl, rfl, rfl⟩⟩
theorem witness_ReadTransferFillsFifo : ∃ s : State, s.xstep = .s4 ∧ s.storeStuck = false ∧
    (s.drv.get s.xdrv).transferLength ≤ Config.fifoCap :=
  ⟨running 0x01 .s4 [.reference], rfl, rfl, transferLength_le_fifoCap _ rfl⟩
theorem witness_WriteTransferStoresFifo : ∃ s : State, s.xstep = .s4 ∧ s.storeStuck = false ∧
    (s.drv.get s.xdrv).transferLength ≤ Config.fifoCap ∧
    writeTransferCount s = (s.drv.get s.xdrv).transferLength :=
  ⟨running 0x02 .s4 [.free true [] 256], rfl, rfl, transferLength_le_fifoCap _ rfl, by decide⟩
/-- Nine refusals, then a success: the last one that still counts (V-REO-3). -/
theorem witness_ReopenStopsAtFirstSuccess : ∃ (s : State) (fails rest : List StoreAnswer) (a : StoreAnswer),
    s.xstep = .s5 ∧ s.storeStuck = false ∧ s.storeAnswers = fails ++ a :: rest ∧ fails.length < 10 ∧
    (∀ f ∈ fails, answerOpens f (s.disk.get s.xdrv).media = false) ∧
    answerOpens a (s.disk.get s.xdrv).media = true :=
  ⟨running 0x02 .s5 (List.replicate 9 (.free false [] 0) ++ [.reference]), List.replicate 9 (.free false [] 0), [],
    .reference, rfl, rfl, rfl, by decide, by decide, by decide⟩
/-- V-REO-4. -/
theorem witness_ReopenGivesUpAfterTen : ∃ (s : State) (fails rest : List StoreAnswer),
    s.xstep = .s5 ∧ s.storeStuck = false ∧ s.storeAnswers = fails ++ rest ∧ fails.length = 10 ∧
    (∀ f ∈ fails, answerOpens f (s.disk.get s.xdrv).media = false) :=
  ⟨running 0x08 .s5 (List.replicate 10 (.free false [] 0)), List.replicate 10 (.free false [] 0), [], rfl, rfl, rfl,
    by decide, by decide⟩
/-- The reference store on a writable handle, the track inside the file. -/
theorem witness_FormatFillsExactlyOneTrack : ∃ (s : State) (answers rest : List StoreAnswer), s.xstep = .s4 ∧
    s.storeStuck = false ∧ (s.disk.get s.xdrv).isOpen = true ∧
    answers.length = (fillChunks (s.drv.get s.xdrv).trackLength Config.fillChunk).length ∧
    (∀ a ∈ answers, (a = .reference ∧ (s.disk.get s.xdrv).roHandle = false ∧
        (s.drv.get s.xdrv).byteOffset + (s.drv.get s.xdrv).trackLength ≤ (s.disk.get s.xdrv).len) ∨
      ∃ ok data accepted, a = .free ok data accepted ∧ Config.fillChunk ≤ accepted) ∧
    s.storeAnswers = answers ++ rest :=
  ⟨running 0x08 .s4 (List.replicate (fillChunks drive0.trackLength Config.fillChunk).length .reference ++ []),
    List.replicate (fillChunks drive0.trackLength Config.fillChunk).length .reference, [], rfl, rfl, rfl,
    List.length_replicate, fun a ha => .inl ⟨List.eq_of_mem_replicate ha, rfl, by decide⟩, rfl⟩

/-- R7's constraint: a chunk is no longer than drive 0's track. -/
theorem fillChunk_le_track : Config.fillChunk ≤ drive0.trackLength := by
  have ht : (Config.geom 0).spt.toNat * (Config.geom 0).secsize.toNat = 8192 := by decide
  have hd : drive0.trackLength = 8192 := by decide
  rw [hd]
  unfold Config.fillChunk
  split
  · rename_i h
    simp only [Config.fillChunkLegal, ht, Bool.and_eq_true, decide_eq_true_eq] at h
    exact Nat.le_of_dvd (by decide) (Nat.dvd_of_mod_eq_zero h.1.1.1.2)
  · decide

/-- Drive 0's track has a first chunk, of `FILL_CHUNK` bytes. -/
theorem fillChunks_first (track : Nat) (h : Config.fillChunk ≤ track) :
    (fillChunks track Config.fillChunk)[0]? = some Config.fillChunk := by
  have hd : track / Config.fillChunk = track / Config.fillChunk - 1 + 1 :=
    (Nat.succ_pred_eq_of_pos (Nat.div_pos h fillChunk_pos)).symm
  rw [fillChunks, hd, List.replicate_succ]
  rfl

/-- An answer that accepts nothing, the reference store on a read-only handle, and a closed handle. -/
theorem witness_FormatStopsAtShortChunk :
    (∃ (s : State) (b : StoreAnswer) (m : Nat), s.xstep = .s4 ∧ s.storeStuck = false ∧
      (fillChunks (s.drv.get s.xdrv).trackLength Config.fillChunk)[0]? = some m ∧
      (s.disk.get s.xdrv).isOpen = true ∧ s.storeAnswers = [] ++ b :: [] ∧ b = .free true [] 0 ∧
      answerAccepts b (s.disk.get s.xdrv).roHandle
        ((s.disk.get s.xdrv).len - ((s.drv.get s.xdrv).byteOffset + 0 * Config.fillChunk)) m < m) ∧
    (∃ (s : State) (b : StoreAnswer) (m : Nat), s.xstep = .s4 ∧ s.storeStuck = false ∧
      (fillChunks (s.drv.get s.xdrv).trackLength Config.fillChunk)[0]? = some m ∧
      (s.disk.get s.xdrv).isOpen = true ∧ s.storeAnswers = [] ++ b :: [] ∧ b = .reference ∧
      answerAccepts b (s.disk.get s.xdrv).roHandle
        ((s.disk.get s.xdrv).len - ((s.drv.get s.xdrv).byteOffset + 0 * Config.fillChunk)) m < m) ∧
    (∃ (s : State) (m : Nat), s.xstep = .s4 ∧ s.storeStuck = false ∧
      (fillChunks (s.drv.get s.xdrv).trackLength Config.fillChunk)[0]? = some m ∧
      (s.disk.get s.xdrv).isOpen = false) :=
  ⟨⟨running 0x08 .s4 [.free true [] 0], .free true [] 0, Config.fillChunk, rfl, rfl,
      fillChunks_first _ fillChunk_le_track, rfl, rfl, rfl, by simpa [answerAccepts] using fillChunk_pos⟩,
    ⟨{ running 0x08 .s4 [.reference] with disk := calm.disk.set 0 { file0 with roHandle := true } }, .reference,
      Config.fillChunk, rfl, rfl, fillChunks_first _ fillChunk_le_track, rfl, rfl, rfl, fillChunk_pos⟩,
    ⟨{ running 0x08 .s4 [] with disk := calm.disk.set 0 { file0 with isOpen := false } }, Config.fillChunk, rfl, rfl,
      fillChunks_first _ fillChunk_le_track, rfl⟩⟩
theorem witness_ReadParametersEmitsTable : (running 0x10 .s3 []).xstep = .s3 := by decide

theorem witness_CylinderAndCountAssembly : (0xFF : Byte) ≠ 0 := by decide
/-- The last sector of the disk (V-OFF-10). -/
theorem witness_ValidatedSectorLiesInsideDisk : ∃ v : Drive, v.valid = true ∧ v.curSize = 256 ∧
    v.cyls.toNat * v.heads.toNat * v.spt.toNat * v.secsize.toNat ≤ 2 ^ 32 ∧ v.byteOffset = 83558144 :=
  ⟨{ drive0 with curCyl := 679, curHead := 14, curSec := 31 }, by decide, rfl, by decide, by decide⟩
theorem witness_TranslationIsInjective : ∃ v w : Drive, v.valid = true ∧ w.valid = true ∧ v.geometry = w.geometry ∧
    v.byteOffset = w.byteOffset ∧ v ≠ w :=
  ⟨drive0, { drive0 with xfer := 2 }, by decide, by decide, rfl, by decide, by
    intro h
    exact absurd (congrArg Drive.xfer h) (by decide)⟩
theorem witness_TransferFitsFifo : ∃ v : Drive, v.curSize = 256 ∧ v.transferLength = 65280 :=
  ⟨{ drive0 with xfer := 255 }, rfl, by decide⟩

/-- A Write of one sector, and a later Read of it, with the reference store's answers (program P1). -/
theorem witness_WriteThenReadRoundTrips : ∃ (s u : State) (rest rest' : List StoreAnswer),
    (s.wait = false ∧ s.hostEvents = [] ∧ s.dstate = .executing ∧ s.xcmd = 0x02 ∧ s.xstep = .s3 ∧
      s.storeStuck = false ∧ (s.drv.get s.xdrv).valid = true ∧ (s.drv.get s.xdrv).curSize = 256) ∧
    ((s.disk.get s.xdrv).isOpen = true ∧ (s.disk.get s.xdrv).roHandle = false ∧
      (s.drv.get s.xdrv).byteOffset + (s.drv.get s.xdrv).transferLength ≤ (s.disk.get s.xdrv).len ∧
      (s.disk.get s.xdrv).media = true ∧ s.storeAnswers = .reference :: .reference :: rest) ∧
    (u.wait = false ∧ u.hostEvents = [] ∧ u.dstate = .executing ∧ u.xcmd = 0x01 ∧ u.xstep = .s3 ∧
      u.storeStuck = false ∧ u.xdrv = s.xdrv ∧ u.storeAnswers = .reference :: rest') ∧
    (u.drv.get u.xdrv) = { s.drv.get s.xdrv with ready := (u.drv.get u.xdrv).ready } :=
  ⟨running 0x02 .s3 [.reference, .reference], running 0x01 .s3 [.reference], [], [],
    ⟨rfl, rfl, rfl, rfl, rfl, rfl, by decide, rfl⟩, ⟨rfl, rfl, by decide, rfl, rfl⟩,
    ⟨rfl, rfl, rfl, rfl, rfl, rfl, rfl, rfl⟩, rfl⟩

/-- A statement about every slot, from the four of them. -/
theorem slot_cases {p : Slot → Prop} (h0 : p 0) (h1 : p 1) (h2 : p 2) (h3 : p 3) (d : Slot) : p d := by
  rcases (by decide : ∀ d : Slot, d = 0 ∨ d = 1 ∨ d = 2 ∨ d = 3) d with h | h | h | h <;> subst h <;> assumption

/-- The running test states are legal, at every step of the command. -/
theorem legal_running (op : Opcode) (x : CmdStep) (answers : List StoreAnswer) (stuck excl wait : Bool)
    (hx : x.number ≤ lastStep (decodeCommand op)) (he : excl = true → stuck = true) :
    Legal { running op x answers with storeStuck := stuck, excl := excl, wait := wait } where
  cursorWithin := (by decide : 3 ≤ 65280).trans le_fifoCap
  fifoCanonical := by
    show Memory.wf calm.fifo
    decide
  fifoWithin := by
    intro i hi
    have h4 : ∀ j : Nat, 4 ≤ j → Memory.read? [(0, 0x11), (1, 0x22), (2, 0x33), (3, 0x44)] j = none := by
      intro j hj
      simp [Memory.read?, show ¬ 0 = j by omega, show ¬ 1 = j by omega, show ¬ 2 = j by omega,
        show ¬ 3 = j by omega]
    exact h4 i (((by decide : 4 ≤ 65280).trans le_fifoCap).trans hi)
  diskCanonical := slot_cases List.Pairwise.nil List.Pairwise.nil List.Pairwise.nil List.Pairwise.nil
  statusTwelve := by
    show statusLegal 0x10 = true
    decide
  idleUnlessPending := fun h => by cases h
  rerunOnlyPending := fun _ => rfl
  capturedSelected := fun _ => by
    show selectedOffset 0 = true
    decide
  busSafe := rfl
  sectorLow := by
    show TaskFile.zero.sector.getLsbD 7 = false
    decide
  configured := slot_cases rfl rfl rfl rfl
  sizeKnown := slot_cases (.inr rfl) (.inl rfl) (.inl rfl) (.inl rfl)
  readyOpen := slot_cases rfl rfl rfl rfl
  exclStuck := he
  stepListed := fun _ => hx
  validated := fun _ _ _ => by
    show drive0.valid = true
    decide

/-- A command pending at Idle is within a legal state too. -/
theorem legal_waiting : Legal { running 0x02 .s3 [] with dstate := .idle } :=
  have h := legal_running 0x02 .s3 [] false false false (by decide) (fun h => h)
  { h with
    idleUnlessPending := fun _ => rfl
    stepListed := fun e => by cases e
    validated := fun e => by cases e }

/-- Write at its transfer, and a command pending at Idle, in a state that the Finish of an earlier one leaves. -/
theorem witness_EveryCommandReturnsToIdle :
    (∃ s : State, Legal s ∧ s.wait = false ∧ s.hostEvents = [] ∧ s.storeStuck = false ∧ s.dstate ≠ .idle) ∧
    (∃ s : State, Legal s ∧ s.wait = false ∧ s.hostEvents = [] ∧ s.storeStuck = false ∧ s.dstate = .idle ∧
      s.pending = true) :=
  ⟨⟨_, legal_running 0x02 .s4 [.reference] false false false (by decide) (fun h => h), rfl, rfl, rfl, by decide⟩,
    ⟨_, legal_waiting, rfl, rfl, rfl, rfl, rfl⟩⟩
/-- Each of the three critical steps: the dispatcher's turn with nothing to come, at a quiet boundary before a cycle, and
with the captured cycle shut out. -/
theorem witness_StuckCriticalSectionStallsHost :
    (∃ s : State, Legal s ∧ s.storeStuck = true ∧ s.dstate = .executing ∧ s.xcmd = 0x00 ∧ s.xstep = .s3 ∧
      DispatcherHasTurn s []) ∧
    (∃ (s : State) (c : BusCycle), Legal s ∧ s.storeStuck = true ∧ s.dstate = .executing ∧ s.xcmd = 0x01 ∧
      s.xstep = .s4 ∧ DispatcherHasTurn s [.cycle c]) ∧
    (∃ s : State, Legal s ∧ s.storeStuck = true ∧ s.dstate = .executing ∧ s.xcmd = 0x02 ∧ s.xstep = .s4 ∧
      s.wait = true ∧ s.excl = true) :=
  ⟨⟨_, legal_running 0x00 .s3 [] true false false (by decide) (fun h => by cases h), rfl, rfl, rfl, rfl,
      .inl ⟨rfl, rfl, rfl⟩⟩,
    ⟨{ running 0x01 .s4 [] with
        storeStuck := true, hostEvents := [.quiet, .cycle ⟨0, .read, 0⟩] }, ⟨0, .read, 0⟩,
      { legal_running 0x01 .s4 [] true false false (by decide) (fun h => by cases h) with }, rfl, rfl, rfl, rfl,
      .inr (.inl ⟨rfl, rfl⟩)⟩,
    ⟨_, legal_running 0x02 .s4 [] true true true (by decide) (fun _ => rfl), rfl, rfl, rfl, rfl, rfl, rfl⟩⟩
/-- Each of the three steps outside a critical section: the dispatcher's turn, and a captured cycle. -/
theorem witness_StuckOutsideCriticalSectionServesHost :
    (∃ s : State, Legal s ∧ s.storeStuck = true ∧ s.dstate = .executing ∧ s.xcmd = 0x08 ∧ s.xstep = .s4 ∧
      DispatcherHasTurn s []) ∧
    (∃ s : State, Legal s ∧ s.storeStuck = true ∧ s.dstate = .executing ∧ s.xcmd = 0x02 ∧ s.xstep = .s5 ∧
      s.wait = true ∧ s.excl = false) ∧
    (∃ s : State, Legal s ∧ s.storeStuck = true ∧ s.dstate = .executing ∧ s.xcmd = 0x08 ∧ s.xstep = .s5 ∧
      s.wait = true ∧ s.excl = false) :=
  ⟨⟨_, legal_running 0x08 .s4 [] true false false (by decide) (fun _ => rfl), rfl, rfl, rfl, rfl, .inl ⟨rfl, rfl, rfl⟩⟩,
    ⟨_, legal_running 0x02 .s5 [] true false true (by decide) (fun _ => rfl), rfl, rfl, rfl, rfl, rfl, rfl⟩,
    ⟨_, legal_running 0x08 .s5 [] true false true (by decide) (fun _ => rfl), rfl, rfl, rfl, rfl, rfl, rfl⟩⟩
theorem witness_StepKeepsLegalStates : ∃ s t : State, Legal s ∧ step s = .next t :=
  ⟨_, _, legal_running 0x0B .s3 [] false false false (by decide) (fun h => h), rfl⟩
theorem witness_LegalStatesNeverStop : ∃ s : State, Legal s ∧ s.wait = true :=
  ⟨_, legal_running 0x01 .s5 [] false false true (by decide) (fun h => h), rfl⟩
theorem witness_StatusStaysOneOfTwelve : ∃ s t : State, statusLegal s.status = true ∧ step s = .next t :=
  ⟨captured 0 0x81 .write, _, by decide, rfl⟩
theorem witness_ViolationLatchesAreSticky : ∃ s t : State, step s = .next t ∧ s.viol = true ∧ s.overrun = true :=
  ⟨{ captured 4 0 .write with viol := true, overrun := true }, _, rfl, rfl, rfl⟩
theorem witness_ErrorBitChangedByFourCommandsOnly : ∃ (i : Instr) (s t : State), i ≠ .reset ∧ i ≠ .read ∧ i ≠ .write ∧
    i ≠ .format ∧ exec i s = .next t := ⟨.fifo, calm, _, by decide, by decide, by decide, by decide, rfl⟩
theorem witness_CursorMovedByFourInstructionsOnly : ∃ (i : Instr) (s t : State), exec i s = .next t ∧ i ≠ .rd8 ∧
    (∀ b, i ≠ .wr8 b) ∧ (∀ b, i ≠ .wr4 b) ∧ i ≠ .fifo :=
  ⟨.rd4, calm, _, rfl, by decide, by simp, by simp, by decide⟩
theorem witness_CursorMovedByFourInstructionsOnly_data : ∃ (s t : State), exec (.wr8 0x5A) s = .next t :=
  ⟨calm, _, rfl⟩
theorem witness_CommandsLeaveHandlerSideAlone : ∃ (i : Instr) (s t : State), i.isBus = false ∧ i ≠ .reset ∧
    exec i s = .next t := ⟨.write, running 0x02 .s5 [.reference], _, rfl, by decide, rfl⟩
theorem witness_CommandsStayOnTheirDrive : ∃ (i : Instr) (s t : State) (d : Slot), i ≠ .reset ∧ exec i s = .next t ∧
    d ≠ s.xdrv := ⟨.format, running 0x08 .s5 [.reference], _, 3, by decide, rfl, by decide⟩
theorem witness_ResetIsThePowerOnProcedure : ∃ s : State, s.fifo = [] ∧ s.xstep = State.reset.xstep ∧
    s.xcmd = State.reset.xcmd ∧ s.xdrv = State.reset.xdrv ∧ s.capOff = State.reset.capOff ∧
    s.capData = State.reset.capData ∧ s.capDir = State.reset.capDir ∧
    (∀ d, s.disk.get d = DiskFile.powerOn d false) ∧ s.hostEvents = [] ∧ s.reads = [] ∧ s.storeAnswers = [] ∧
    s.storeReqs = 0 ∧ s.storeStuck = false ∧ s.status = 0x61 :=
  ⟨{ State.reset with
      disk := ⟨DiskFile.powerOn 0 false, DiskFile.powerOn 1 false, DiskFile.powerOn 2 false, DiskFile.powerOn 3 false⟩
      storeReqs := 0
      status := 0x61 },
    rfl, rfl, rfl, rfl, rfl, rfl, rfl, slot_cases rfl rfl rfl rfl, rfl, rfl, rfl, rfl, rfl, rfl⟩

end Sys2Proof.Tests
end

/-! # Family 10_state: the state's invariants, power-on reset, Reset and Reopen -/

/-! ## Laws of the shared operations that the step inversions need -/
section
namespace Sys2Proof.Machine

/-- A property of all four slots, slot by slot. -/
theorem forall_slot {p : Slot → Prop} (h0 : p 0) (h1 : p 1) (h2 : p 2) (h3 : p 3) (d : Slot) : p d := by
  rcases (by decide : ∀ e : Slot, e = 0 ∨ e = 1 ∨ e = 2 ∨ e = 3) d with rfl | rfl | rfl | rfl
  exacts [h0, h1, h2, h3]

/-- A property of all four slots outlives a write that has it. -/
theorem Quad.forall_get_set {α : Type} {p : Slot → α → Prop} {q : Quad α} {d : Slot} {x : α}
    (hq : ∀ e, p e (q.get e)) (hx : p d x) (e : Slot) : p e ((q.set d x).get e) := by
  by_cases he : e = d
  · rw [he, Quad.get_set_same]
    exact hx
  · rw [Quad.get_set_other _ _ _ _ he]
    exact hq e

/-- What a write does not change in its slot it changes in none. -/
theorem Quad.apply_get_set {α β : Type} (g : α → β) (q : Quad α) (d : Slot) {x : α} (hx : g x = g (q.get d))
    (e : Slot) : g ((q.set d x).get e) = g (q.get e) :=
  Quad.forall_get_set (p := fun e y => g y = g (q.get e)) (fun _ => rfl) hx e

/-- `read_next` advances CUR below capacity and sets OVERRUN at it (R132, R136). -/
theorem fifoReadNext_cases (s : State) :
    (s.cur < Config.fifoCap ∧ fifoReadNext s = { s with cur := s.cur + 1 }) ∨
      (¬ s.cur < Config.fifoCap ∧ fifoReadNext s = { s with overrun := true }) := by
  by_cases h : s.cur < Config.fifoCap
  · exact .inl ⟨h, (fifoReadNext_below h).2⟩
  · exact .inr ⟨h, (fifoReadNext_full h).2⟩

/-- `write_next` stores the byte and advances CUR below capacity and sets OVERRUN at it (R133, R136). -/
theorem fifoWriteNext_cases (b : Byte) (s : State) :
    (s.cur < Config.fifoCap ∧ fifoWriteNext b s = { s with fifo := s.fifo.write s.cur b, cur := s.cur + 1 }) ∨
      (¬ s.cur < Config.fifoCap ∧ fifoWriteNext b s = { s with overrun := true }) := by
  by_cases h : s.cur < Config.fifoCap
  · exact .inl ⟨h, fifoWriteNext_below b h⟩
  · exact .inr ⟨h, fifoWriteNext_full b h⟩

theorem fifoReadNext_status (s : State) : (fifoReadNext s).status = s.status := by
  rcases fifoReadNext_cases s with ⟨-, e⟩ | ⟨-, e⟩ <;> rw [e]

theorem fifoWriteNext_status (b : Byte) (s : State) : (fifoWriteNext b s).status = s.status := by
  rcases fifoWriteNext_cases b s with ⟨-, e⟩ | ⟨-, e⟩ <;> rw [e]

/-- The three exclusive ends of a parameter burst (R115). -/
theorem parameterBurst_cases (s : State) :
    (s.pending = false ∧ parameterBurst s = { commitParameterBurst s with
        status := setPattern stAccept (setPattern stPar s.status), pending := true }) ∨
      (s.pending = true ∧ s.tf.opcode = opReset ∧ parameterBurst s = { commitParameterBurst s with rerun := true }) ∨
      (s.pending = true ∧ s.tf.opcode ≠ opReset ∧ parameterBurst s = { commitParameterBurst s with viol := true }) := by
  unfold parameterBurst
  cases hp : s.pending with
  | false => exact .inl ⟨rfl, rfl⟩
  | true =>
    by_cases ho : s.tf.opcode = opReset
    · exact .inr (.inl ⟨rfl, ho, by simp [ho]⟩)
    · exact .inr (.inr ⟨rfl, ho, by simp [ho]⟩)

/-- Validation passes to step 4 with the error bit cleared, or aborts (R56, R151). -/
theorem validateStep_cases (s : State) :
    ((s.drv.get s.xdrv).valid = true ∧ validateStep s = { s.clearError with xstep := .s4 }) ∨
      validateStep s = finish s.setError := by
  unfold validateStep
  by_cases h : (s.drv.get s.xdrv).valid = true
  · exact .inl ⟨h, if_pos h⟩
  · exact .inr (if_neg h)

end Sys2Proof.Machine
end

/-! ## What a bus transaction can do, said once -/
section
namespace Sys2Proof.Machine

/-- Every service step of a bus transaction is of one of eight kinds: a read with no other effect (R111, R117 to R119),
the data-port read and write (R134, R135), a holding write (R112), the cursor reset (R116), a write without function
(R120), the command burst (R113, R114), the parameter burst (R113, R115). -/
theorem busStep_cases {i : Instr} {s t : State} (hb : i.isBus = true) (h : exec i s = .next t) :
    (i ≠ .rd8 ∧ ∃ v, t = finishRead v s) ∨
      (i = .rd8 ∧ t = finishRead (fifoNextByte s) (fifoReadNext s)) ∨
      (∃ b, i = .wr8 b ∧ t = endService (fifoWriteNext b s)) ∨
      (∃ k b, (i = .wr1 b ∧ k = 1 ∨ i = .wr2 b ∧ k = 2 ∨ i = .wr3 b ∧ k = 3) ∧ t = endService (holdWrite k b s)) ∨
      (∃ b, i = .wr4 b ∧ t = endService (fifoReset s)) ∨
      (∃ off b, i = .wrx off b ∧ t = endService s) ∨
      (∃ op, i = .wr0cmd op ∧ t = endService (commandBurst (holdWrite 0 (triggerByte true op) s))) ∨
      (∃ sector, i = .wr0par sector ∧ t = endService (parameterBurst (holdWrite 0 (triggerByte false sector) s))) := by
  have outcome {u : State} (hu : (.next u : Host.Outcome State Fault Refusal) = .next t) : t = u :=
    (Host.Outcome.next.inj hu).symm
  cases i <;> try cases hb
  case rd0 | rd1 | rd2 | rd3 | rd4 | rdx => exact .inl ⟨by simp, _, outcome h⟩
  case rd8 => exact .inr (.inl ⟨rfl, outcome h⟩)
  case wr8 b => exact .inr (.inr (.inl ⟨b, rfl, outcome h⟩))
  case wr1 b => exact .inr (.inr (.inr (.inl ⟨1, b, .inl ⟨rfl, rfl⟩, outcome h⟩)))
  case wr2 b => exact .inr (.inr (.inr (.inl ⟨2, b, .inr (.inl ⟨rfl, rfl⟩), outcome h⟩)))
  case wr3 b => exact .inr (.inr (.inr (.inl ⟨3, b, .inr (.inr ⟨rfl, rfl⟩), outcome h⟩)))
  case wr4 b => exact .inr (.inr (.inr (.inr (.inl ⟨b, rfl, outcome h⟩))))
  case wrx off b => exact .inr (.inr (.inr (.inr (.inr (.inl ⟨off, b, rfl, outcome h⟩)))))
  case wr0cmd op => exact .inr (.inr (.inr (.inr (.inr (.inr (.inl ⟨op, rfl, outcome h⟩))))))
  case wr0par sector => exact .inr (.inr (.inr (.inr (.inr (.inr (.inr ⟨sector, rfl, outcome h⟩))))))

/-- The transaction a captured word decodes to is a bus transaction (R84). -/
theorem isBus_of_decodeBus {w : TransWord} {i : Instr} (h : decodeBus w = .ok i) : i.isBus = true := by
  by_cases hw : selectedOffset (wordOffset w) = true
  · obtain ⟨j, hj, hb⟩ := decodeBus_ok hw
    rw [hj] at h
    cases h
    exact hb
  · simp [decodeBus, hw] at h

end Sys2Proof.Machine
end

/-! ## The handler's side under disk commands (R31, R106) -/
section
namespace Sys2Proof.Machine

theorem HandlerSideSame.refl (s : State) : HandlerSideSame s s :=
  ⟨⟨rfl, rfl⟩, ⟨rfl, rfl, rfl, rfl⟩, rfl, rfl, rfl⟩

theorem StoreFrame.handlerSideSame {s t : State} (h : StoreFrame s t) : HandlerSideSame s t :=
  ⟨⟨h.viol, h.overrun⟩, ⟨h.capOff, h.capData, h.capDir, h.hostEvents⟩, h.wait, h.dbdir, h.reads⟩

theorem resetStep_handlerSideSame (s : State) : HandlerSideSame s (resetStep s) := by
  obtain ⟨hviol, hoverrun, -, -, hoff, hdata, hdir, hwait, hdbdir, hevents, hreads, -⟩ := resetStep_frame s
  exact ⟨⟨hviol, hoverrun⟩, ⟨hoff, hdata, hdir, hevents⟩, hwait, hdbdir, hreads⟩

/-- What every step of a disk command but Reset leaves alone: HOLD, the task file, SEL and the handler's side. -/
def CommandFrame (s t : State) : Prop :=
  HandlerSideSame s t ∧ t.hold = s.hold ∧ t.tf = s.tf ∧ t.sel = s.sel

theorem CommandFrame.refl (s : State) : CommandFrame s s := ⟨.refl s, rfl, rfl, rfl⟩

theorem StoreFrame.commandFrame {s t : State} (h : StoreFrame s t) : CommandFrame s t :=
  ⟨h.handlerSideSame, h.hold, h.tf, h.sel⟩

theorem validateStep_commandFrame (s : State) : CommandFrame s (validateStep s) := by
  rcases validateStep_cases s with ⟨-, e⟩ | e <;> rw [e]
  · exact .refl s
  · exact .refl s

/-- Every step of a disk command but Reset keeps HOLD, the task file, SEL and the handler's side. -/
theorem CommandStep.commandFrame {i : Instr} {s t : State} (h : CommandStep i s t) (hi : i ≠ .reset) :
    CommandFrame s t := by
  cases h with
  | stuck => exact .refl s
  | reset => exact absurd rfl hi
  | validate => exact validateStep_commandFrame s
  | validateFormat => exact validateStep_commandFrame (clearSector s)
  | readTransfer =>
    rw [readTransfer_eq]
    exact .refl s
  | writeTransfer =>
    rw [writeTransfer_eq]
    exact .refl s
  | fill => exact (fillStep_frame s).1.commandFrame
  | reopen => exact (reopenStep_frame s).1.commandFrame
  | params =>
    rw [paramsTransfer_eq]
    exact .refl s
  | fifo => exact .refl s
  | complete => exact .refl s

/-- No step of a disk command touches the handler's side (R31). -/
theorem CommandStep.handlerSideSame {i : Instr} {s t : State} (h : CommandStep i s t) : HandlerSideSame s t := by
  by_cases hi : i = .reset
  · subst hi
    cases h with
    | stuck => exact .refl s
    | reset => exact resetStep_handlerSideSame s
    | validate i _ hv => simp at hv
    | reopen i _ hv => simp at hv
    | complete i _ p _ hv => exact absurd rfl hv
  · exact (h.commandFrame hi).1

/-- Settles O56: by the kinds of command steps, Reset by its own frame. -/
theorem commandsLeaveHandlerSideAlone : Obligations.CommandsLeaveHandlerSideAlone := by
  intro i s t hb h
  have hc : CommandStep i s t := commandStep_of_exec hb h
  exact ⟨hc.handlerSideSame, fun hi => (hc.commandFrame hi).2⟩

end Sys2Proof.Machine
end

/-! ## VIOL and OVERRUN are sticky (R18, R198) -/
section
namespace Sys2Proof.Machine

/-- Neither latch is cleared between `s` and `t`. -/
def LatchesKept (s t : State) : Prop := (s.viol = true → t.viol = true) ∧ (s.overrun = true → t.overrun = true)

theorem SameLatches.latchesKept {s t : State} (h : SameLatches s t) : LatchesKept s t :=
  ⟨fun hv => h.1.trans hv, fun ho => h.2.trans ho⟩

theorem LatchesKept.finishRead {s t : State} (h : LatchesKept s t) (v : Byte) :
    LatchesKept s (Machine.finishRead v t) := h

theorem LatchesKept.endService {s t : State} (h : LatchesKept s t) : LatchesKept s (Machine.endService t) := h

theorem fifoReadNext_latchesKept (s : State) : LatchesKept s (fifoReadNext s) := by
  rcases fifoReadNext_cases s with ⟨-, e⟩ | ⟨-, e⟩ <;> rw [e]
  · exact ⟨id, id⟩
  · exact ⟨id, fun _ => rfl⟩

theorem fifoWriteNext_latchesKept (b : Byte) (s : State) : LatchesKept s (fifoWriteNext b s) := by
  rcases fifoWriteNext_cases b s with ⟨-, e⟩ | ⟨-, e⟩ <;> rw [e]
  · exact ⟨id, id⟩
  · exact ⟨id, fun _ => rfl⟩

theorem parameterBurst_latchesKept (s : State) : LatchesKept s (parameterBurst s) := by
  rcases parameterBurst_cases s with ⟨-, e⟩ | ⟨-, -, e⟩ | ⟨-, -, e⟩ <;> rw [e]
  · exact ⟨id, id⟩
  · exact ⟨id, id⟩
  · exact ⟨fun _ => rfl, id⟩

/-- A bus transaction can set a latch and never clears one. -/
theorem busStep_latchesKept {i : Instr} {s t : State} (hb : i.isBus = true) (h : exec i s = .next t) :
    LatchesKept s t := by
  rcases busStep_cases hb h with ⟨-, v, rfl⟩ | ⟨-, rfl⟩ | ⟨b, -, rfl⟩ | ⟨k, b, -, rfl⟩ | ⟨b, -, rfl⟩ |
    ⟨off, b, -, rfl⟩ | ⟨op, -, rfl⟩ | ⟨sector, -, rfl⟩
  · exact ⟨id, id⟩
  · exact (fifoReadNext_latchesKept s).finishRead _
  · exact (fifoWriteNext_latchesKept b s).endService
  · exact ⟨id, id⟩
  · exact ⟨id, id⟩
  · exact ⟨id, id⟩
  · exact ⟨id, id⟩
  · exact (parameterBurst_latchesKept (holdWrite 0 (triggerByte false sector) s)).endService

theorem dispatcherTurn_sameLatches {s t : State} (h : dispatcherTurn s = .next t) : SameLatches s t := by
  rcases dispatcherTurn_cases h with ⟨-, -, rfl⟩ | ⟨-, -, rfl⟩ | ⟨-, rfl⟩ | ⟨-, h⟩
  · exact ⟨rfl, rfl⟩
  · exact ⟨rfl, rfl⟩
  · exact ⟨rfl, rfl⟩
  · exact (commandStep_of_exec (decodeCommand_isBus _) h).handlerSideSame.1

theorem presentCycle_sameLatches (c : BusCycle) (s : State) : SameLatches s (presentCycle c s) := by
  unfold presentCycle
  split <;> exact ⟨rfl, rfl⟩

/-- Settles O53: only bus transactions reach the latches, and they only set them. -/
theorem violationLatchesAreSticky : Obligations.ViolationLatchesAreSticky := by
  intro s t h
  cases machineStep_of_step h with
  | service i _ _ _ _ hd he => exact busStep_latchesKept (isBus_of_decodeBus hd) he
  | present c rest => exact (presentCycle_sameLatches c { s with hostEvents := rest }).latchesKept
  | quiet rest _ _ _ _ hd =>
    have hsame := dispatcherTurn_sameLatches hd
    exact SameLatches.latchesKept (s := s) hsame
  | dispatcher _ _ _ hd => exact (dispatcherTurn_sameLatches hd).latchesKept

end Sys2Proof.Machine
end

/-! ## The cursor (R20) -/
section
namespace Sys2Proof.Machine

theorem validateStep_cur (s : State) : (validateStep s).cur = s.cur := by
  rcases validateStep_cases s with ⟨-, e⟩ | e <;> rw [e] <;> rfl

/-- Of the disk commands Access FIFO alone moves the cursor. -/
theorem CommandStep.cur_eq {i : Instr} {s t : State} (h : CommandStep i s t) (hi : i ≠ .fifo) : t.cur = s.cur := by
  cases h with
  | stuck => rfl
  | reset =>
    obtain ⟨-, -, hcur, -⟩ := resetStep_frame s
    exact hcur
  | validate => exact validateStep_cur s
  | validateFormat => exact validateStep_cur (clearSector s)
  | readTransfer => rw [readTransfer_eq]
  | writeTransfer => rw [writeTransfer_eq]
  | fill => exact (fillStep_frame s).1.cur
  | reopen => exact (reopenStep_frame s).1.cur
  | params => rw [paramsTransfer_eq]
  | fifo => exact absurd rfl hi
  | complete => rfl

theorem parameterBurst_cur (s : State) : (parameterBurst s).cur = s.cur := by
  rcases parameterBurst_cases s with ⟨-, e⟩ | ⟨-, -, e⟩ | ⟨-, -, e⟩ <;> rw [e] <;> rfl

/-- Of the bus transactions the data port and WR4 alone move the cursor. -/
theorem busStep_cur_eq {i : Instr} {s t : State} (hb : i.isBus = true) (h : exec i s = .next t) (h8 : i ≠ .rd8)
    (hw8 : ∀ b, i ≠ .wr8 b) (hw4 : ∀ b, i ≠ .wr4 b) : t.cur = s.cur := by
  rcases busStep_cases hb h with ⟨-, v, rfl⟩ | ⟨hi, -⟩ | ⟨b, hi, -⟩ | ⟨k, b, -, rfl⟩ | ⟨b, hi, -⟩ | ⟨off, b, -, rfl⟩ |
    ⟨op, -, rfl⟩ | ⟨sector, -, rfl⟩
  · rfl
  · exact absurd hi h8
  · exact absurd hi (hw8 b)
  · rfl
  · exact absurd hi (hw4 b)
  · rfl
  · rfl
  · exact parameterBurst_cur (holdWrite 0 (triggerByte false sector) s)

/-- `n` is `m` or one more: how far one data-port access can move the cursor. -/
def WithinOne (m n : Nat) : Prop := m ≤ n ∧ n ≤ m + 1

theorem fifoReadNext_cur_withinOne (s : State) : WithinOne s.cur (fifoReadNext s).cur := by
  rcases fifoReadNext_cases s with ⟨-, e⟩ | ⟨-, e⟩ <;> rw [e]
  · exact ⟨Nat.le_succ _, le_refl _⟩
  · exact ⟨le_refl _, Nat.le_succ _⟩

theorem fifoWriteNext_cur_withinOne (b : Byte) (s : State) : WithinOne s.cur (fifoWriteNext b s).cur := by
  rcases fifoWriteNext_cases b s with ⟨-, e⟩ | ⟨-, e⟩ <;> rw [e]
  · exact ⟨Nat.le_succ _, le_refl _⟩
  · exact ⟨le_refl _, Nat.le_succ _⟩

/-- Settles O55: by the kinds of bus transactions and of command steps. -/
theorem cursorMovedByFourInstructionsOnly : Obligations.CursorMovedByFourInstructionsOnly := by
  constructor
  · intro i s t h h8 hw8 hw4 hf
    cases hb : i.isBus with
    | true => exact busStep_cur_eq hb h h8 hw8 hw4
    | false => exact (commandStep_of_exec hb h).cur_eq hf
  · rintro i s t (rfl | ⟨b, rfl⟩) h
    · simp only [exec, execRd8, Host.Outcome.next.injEq] at h
      rw [← h, finishRead_cur]
      exact fifoReadNext_cur_withinOne s
    · simp only [exec, execWr8, Host.Outcome.next.injEq] at h
      rw [← h, endService_cur]
      exact fifoWriteNext_cur_withinOne b s

end Sys2Proof.Machine
end

/-! ## STATUS (R17) -/
section
namespace Sys2Proof.Machine

/-- A STATUS that keeps the pattern stays legal. -/
theorem StoreFrame.statusLegal {s t : State} (h : StoreFrame s t) (hs : statusLegal s.status = true) :
    Machine.statusLegal t.status = true := by
  rw [statusLegal_congr h.pattern, hs]

/-- A transfer's STATUS, with the error bit set or not, is legal. -/
theorem statusLegal_noteShort {p : Prop} [Decidable p] {st : Byte} (h : statusLegal st = true) :
    statusLegal (if p then st else setErrorBit st) = true := by
  split <;> simp [h]

theorem validateStep_statusLegal {s : State} (h : statusLegal s.status = true) :
    statusLegal (validateStep s).status = true := by
  rcases validateStep_cases s with ⟨-, e⟩ | e <;> rw [e] <;> simpa using h

/-- The completion patterns of R7 are legal. -/
theorem statusLegal_completion {p : Byte} (h : p = stData ∨ p = stWdone ∨ p = stFdone) : statusLegal p = true := by
  rcases h with rfl | rfl | rfl <;> decide

/-- STATUS stays legal in every step of a disk command. -/
theorem CommandStep.statusLegal {i : Instr} {s t : State} (h : CommandStep i s t)
    (hs : statusLegal s.status = true) : Machine.statusLegal t.status = true := by
  cases h with
  | stuck => exact hs
  | reset => exact statusLegal_setPattern _ (by decide)
  | validate => exact validateStep_statusLegal hs
  | validateFormat => exact validateStep_statusLegal (s := clearSector s) hs
  | readTransfer =>
    rw [readTransfer_eq]
    exact statusLegal_noteShort hs
  | writeTransfer =>
    rw [writeTransfer_eq]
    exact statusLegal_noteShort hs
  | fill => exact (fillStep_frame s).1.statusLegal hs
  | reopen => exact (reopenStep_frame s).1.statusLegal hs
  | params =>
    rw [paramsTransfer_eq]
    exact hs
  | fifo => exact statusLegal_setPattern _ (by decide)
  | complete _ _ _ _ _ _ hp => exact statusLegal_setPattern _ (statusLegal_completion hp)

/-- STATUS is legal after every parameter burst: its pattern is 0x20 or 0x10 (R115). -/
theorem parameterBurst_statusLegal (s : State) : statusLegal (parameterBurst s).status = true := by
  rcases parameterBurst_cases s with ⟨-, e⟩ | ⟨-, -, e⟩ | ⟨-, -, e⟩ <;> rw [e] <;>
    exact statusLegal_setPattern _ (by decide)

/-- STATUS stays legal in every bus transaction. -/
theorem busStep_statusLegal {i : Instr} {s t : State} (hb : i.isBus = true) (h : exec i s = .next t)
    (hs : statusLegal s.status = true) : statusLegal t.status = true := by
  rcases busStep_cases hb h with ⟨-, v, rfl⟩ | ⟨-, rfl⟩ | ⟨b, -, rfl⟩ | ⟨k, b, -, rfl⟩ | ⟨b, -, rfl⟩ |
    ⟨off, b, -, rfl⟩ | ⟨op, -, rfl⟩ | ⟨sector, -, rfl⟩
  · exact hs
  · rwa [finishRead_status, fifoReadNext_status]
  · rwa [endService_status, fifoWriteNext_status]
  · exact hs
  · exact hs
  · exact hs
  · exact statusLegal_setPattern _ (by decide)
  · exact parameterBurst_statusLegal _

theorem presentCycle_status (c : BusCycle) (s : State) : (presentCycle c s).status = s.status := by
  unfold presentCycle
  split <;> rfl

theorem dispatcherTurn_statusLegal {s t : State} (h : dispatcherTurn s = .next t) (hs : statusLegal s.status = true) :
    statusLegal t.status = true := by
  rcases dispatcherTurn_cases h with ⟨-, -, rfl⟩ | ⟨-, -, rfl⟩ | ⟨-, rfl⟩ | ⟨-, h⟩
  · exact hs
  · exact hs
  · exact hs
  · exact (commandStep_of_exec (decodeCommand_isBus _) h).statusLegal hs

/-- Settles O52: every kind of step keeps the pattern or writes one of the six. -/
theorem statusStaysOneOfTwelve : Obligations.StatusStaysOneOfTwelve := by
  intro s t hs h
  cases machineStep_of_step h with
  | service i _ _ _ _ hd he => exact busStep_statusLegal (isBus_of_decodeBus hd) he hs
  | present c rest =>
    rw [presentCycle_status]
    exact hs
  | quiet rest _ _ _ _ hd => exact dispatcherTurn_statusLegal hd hs
  | dispatcher _ _ _ hd => exact dispatcherTurn_statusLegal hd hs

end Sys2Proof.Machine
end

/-! ## Power-on reset (R226, R32) -/
section
namespace Sys2Proof.Machine

/-- Settles O59: the values of the definition, whatever the two opens answer. -/
theorem powerOnResetValues : Obligations.PowerOnResetValues := by
  have hstatus : ∀ a b : Bool, ((if a && b then 0x00 else 0x01 : Byte) = 0x00 ∨
      (if a && b then 0x00 else 0x01 : Byte) = 0x01) ∧
      ((if a && b then 0x00 else 0x01 : Byte) = 0x00 ↔ a = true ∧ b = true) := by decide
  obtain ⟨htwo, hzero⟩ := hstatus (powerOnOpen 0 1) (powerOnOpen 3 3)
  exact ⟨forall_slot rfl rfl rfl rfl, rfl, rfl, rfl, rfl, rfl, rfl, rfl, rfl, rfl, rfl, rfl, htwo, hzero,
    forall_slot rfl rfl rfl rfl, rfl, rfl, forall_slot ⟨rfl, rfl⟩ ⟨rfl, rfl⟩ ⟨rfl, rfl⟩ ⟨rfl, rfl⟩⟩

/-- Power-on STATUS is 0x00 or 0x01, both legal. -/
theorem statusLegal_powerOn (b : Bool) : statusLegal (if b then 0x00 else 0x01) = true := by
  cases b <;> decide

/-- Settles O50: an idle machine with an empty FIFO, fresh descriptors and files open exactly where ready. -/
theorem resetStateIsLegal : Obligations.ResetStateIsLegal where
  cursorWithin := Nat.zero_le _
  fifoCanonical := List.Pairwise.nil
  fifoWithin _ _ := rfl
  diskCanonical := forall_slot .nil .nil .nil .nil
  statusTwelve := statusLegal_powerOn _
  idleUnlessPending _ := rfl
  rerunOnlyPending := nofun
  capturedSelected := nofun
  busSafe := rfl
  sectorLow := rfl
  configured := forall_slot rfl rfl rfl rfl
  sizeKnown := forall_slot (.inl rfl) (.inl rfl) (.inl rfl) (.inl rfl)
  readyOpen := forall_slot rfl rfl rfl rfl
  exclStuck := nofun
  stepListed := nofun
  validated := nofun

end Sys2Proof.Machine
end

/-! ## Reset (R166, R173) -/
section
namespace Sys2Proof.Machine

/-- The state in which reinitialisation opens drive 0: control reset, drives 1 and 2 closed (R173, log 8). -/
def reinitClosed (s : State) : State := closeUnpopulated 2 (closeUnpopulated 1 (reinitControl s))

/-- Whether reinitialisation's open of drive 0 succeeds. -/
def reinitOpen0 (s : State) : Bool := openOk 0 (storeClose 0 (reinitClosed s))

/-- Whether reinitialisation's open of drive 3 succeeds. -/
def reinitOpen3 (s : State) : Bool := openOk 3 (storeClose 3 (openPopulated 0 (reinitClosed s)))

theorem reinitClosed_eq (s : State) :
    reinitClosed s = { reinitControl s with
      disk := ⟨s.disk.get 0, { s.disk.get 1 with isOpen := false }, { s.disk.get 2 with isOpen := false }, s.disk.get 3⟩
      storeReqs := s.storeReqs + (if (s.disk.get 1).isOpen then 1 else 0) +
        (if (s.disk.get 2).isOpen then 1 else 0) } :=
  closeUnpopulated_both (reinitControl s)

/-- The file of a populated drive after its open in reinitialisation (R173). -/
def DiskFile.reopened (f : DiskFile) (ok ro : Bool) : DiskFile :=
  { f with isOpen := ok, roHandle := ok && ro, pos := 0 }

/-- All that reinitialisation does (R173). -/
theorem reinit_eq (s : State) :
    reinit s = { reinitControl s with
      status := if reinitOpen0 s && reinitOpen3 s then 0x00 else 0x01
      drv := ⟨Drive.fresh (Config.geom 0) (reinitOpen0 s), Drive.fresh (Config.geom 1) false,
        Drive.fresh (Config.geom 2) false, Drive.fresh (Config.geom 3) (reinitOpen3 s)⟩
      disk := ⟨(s.disk.get 0).reopened (reinitOpen0 s) (Config.geom 0).ro, { s.disk.get 1 with isOpen := false },
        { s.disk.get 2 with isOpen := false }, (s.disk.get 3).reopened (reinitOpen3 s) (Config.geom 3).ro⟩
      storeReqs := s.storeReqs + 4 + (if (s.disk.get 1).isOpen then 1 else 0) +
        (if (s.disk.get 2).isOpen then 1 else 0)
      storeAnswers := s.storeAnswers.tail.tail } := by
  have hstatus : ∀ a b : Bool, (if b then if a then 0x00 else setErrorBit 0x00 else
      setErrorBit (if a then 0x00 else setErrorBit 0x00)) = (if a && b then 0x00 else 0x01 : Byte) := by decide
  have hreqs : ∀ n k l : Nat, n + k + l + 2 + 2 = n + 4 + k + l := by omega
  have hok0 : openOk 0 (storeClose 0 (reinitClosed s)) = reinitOpen0 s := rfl
  have hok3 : openOk 3 (storeClose 3 (openPopulated 0 (reinitClosed s))) = reinitOpen3 s := rfl
  have h : reinit s = openPopulated 3 (openPopulated 0 (reinitClosed s)) := rfl
  rw [h, openPopulated_eq 3, hok3, openPopulated_eq 0, hok0, reinitClosed_eq, ← hstatus, ← hreqs]
  rfl

/-- Which answers open drives 0 and 3 in reinitialisation (R173). -/
theorem reinitOpen_scripted {s : State} {a b : StoreAnswer} {rest : List StoreAnswer}
    (h : s.storeAnswers = a :: b :: rest) :
    reinitOpen0 s = answerOpens a (s.disk.get 0).media ∧ reinitOpen3 s = answerOpens b (s.disk.get 3).media := by
  have h0 : (reinitClosed s).storeAnswers = a :: b :: rest := by
    rw [reinitClosed_eq]
    exact h
  have h3 : (openPopulated 0 (reinitClosed s)).storeAnswers = b :: rest := by
    rw [openPopulated_eq]
    simp [h0]
  constructor
  · rw [reinitOpen0, openOk_storeClose 0 h0, reinitClosed_eq]
    rfl
  · rw [reinitOpen3, openOk_storeClose 3 h3, openPopulated_eq, reinitClosed_eq]
    rfl

/-- All that Reset's one step does (R166). -/
theorem resetStep_eq (s : State) :
    resetStep s = { reinit { s with excl := true } with
      pending := false, rerun := false, dstate := .idle, excl := false } := by
  have hstatus : ∀ a : Bool, setPattern stReset (if a then 0x00 else 0x01) = (if a then 0x00 else 0x01) := by decide
  simp only [resetStep, critical, finish_eq, reinit_eq, State.setPattern, hstatus]
  rfl

theorem execReset_answered {s : State} (h : s.storeStuck = false) : exec .reset s = .next (resetStep s) := by
  simp [exec, execReset, awaitStore, h]

/-- Files with the same bytes, length and medium are the same to the HOST (R30). -/
theorem SameBytes.sameFile {s t : State} (h : SameBytes s t) {d : Slot}
    (hm : (t.disk.get d).media = (s.disk.get d).media) : SameFile d s t :=
  ⟨byteAt_congr (h d).1 d, (h d).2, hm⟩

/-- Reset leaves every backing file alone (R228). -/
theorem resetStep_sameFile (d : Slot) (s : State) : SameFile d s (resetStep s) := by
  have hbytes : SameBytes s (resetStep s) := by
    rw [resetStep_eq]
    exact sameBytes_reinit { s with excl := true }
  refine hbytes.sameFile ?_
  rw [resetStep_eq, reinit_eq]
  revert d
  exact forall_slot rfl rfl rfl rfl

/-- A FIFO whose cursor and byte list are kept is the same (R20, R21). -/
theorem sameFifo_of_eq {s t : State} (hcur : t.cur = s.cur) (hfifo : t.fifo = s.fifo) : SameFifo s t :=
  ⟨hcur, fifoByte_congr hfifo⟩

theorem resetStep_sameFifo (s : State) : SameFifo s (resetStep s) := by
  obtain ⟨-, -, hcur, hfifo, -⟩ := resetStep_frame s
  exact sameFifo_of_eq hcur hfifo

/-- Settles O30: the equation of Reset's step, read field by field, and its frames. -/
theorem resetCommandReinitialises : Obligations.ResetCommandReinitialises := by
  intro s a b rest hstuck hans
  obtain ⟨ha, hb⟩ := reinitOpen_scripted (s := { s with excl := true }) hans
  have hrest : s.storeAnswers.tail.tail = rest := by rw [hans]; rfl
  have e := (resetStep_eq s).trans (by rw [reinit_eq, ha, hb, hrest])
  refine ⟨resetStep s, execReset_answered hstuck, ?_⟩
  have hfile := fun d => resetStep_sameFile d s
  have hfifo := resetStep_sameFifo s
  have hside := resetStep_handlerSideSame s
  rw [e] at hfile hfifo hside ⊢
  exact ⟨forall_slot rfl rfl rfl rfl, rfl, rfl, rfl, rfl, rfl, rfl, rfl, rfl, rfl, rfl, rfl,
    rfl, rfl, rfl, rfl, rfl, rfl, hfile, rfl, rfl, rfl, rfl, rfl, hfifo, hside⟩

end Sys2Proof.Machine
end

/-! ## Reopen (R152, R197) -/
section
namespace Sys2Proof.Machine

theorem exec_reopen {i : Instr} {s : State} (hi : i = .write ∨ i = .format) (hx : s.xstep = .s5)
    (h : s.storeStuck = false) : exec i s = .next (reopenStep s) := by
  rcases hi with rfl | rfl
  · simp [exec, execWrite, hx, awaitStore, h]
  · simp [exec, execFormat, hx, awaitStore, h]

/-- Step 5 closes the file and makes the attempts from there (R152). -/
theorem reopenStep_eq_loop (s : State) :
    reopenStep s = { reopenLoop s.xdrv 10 ((storeClose s.xdrv s).setReady s.xdrv false) with xstep := .s6 } := rfl

/-- Step 5 where the first `fails.length` answers refuse and the next accepts (R152). -/
theorem reopenStep_success {s : State} {a : StoreAnswer} {rest fails : List StoreAnswer}
    (hans : s.storeAnswers = fails ++ a :: rest) (hlen : fails.length < 10)
    (hf : ∀ f ∈ fails, answerOpens f (s.disk.get s.xdrv).media = false)
    (ha : answerOpens a (s.disk.get s.xdrv).media = true) :
    reopenStep s = { s with
      drv := s.drv.set s.xdrv { s.drv.get s.xdrv with ready := true }
      disk := s.disk.set s.xdrv
        { s.disk.get s.xdrv with isOpen := true, roHandle := (s.drv.get s.xdrv).ro, pos := 0 }
      storeReqs := s.storeReqs + 1 + (fails.length + 1)
      storeAnswers := rest
      xstep := .s6 } := by
  rw [reopenStep_eq_loop, reopenLoop_success s.xdrv a rest fails 10 _ (by simpa using hans) hlen (by simpa using hf)
    (by simpa using ha)]
  simp [storeClose, State.setReady, State.setDrive, State.setDisk, State.issue]

/-- Step 5 where ten answers refuse (R152, R197). -/
theorem reopenStep_failure {s : State} {rest fails : List StoreAnswer} (hans : s.storeAnswers = fails ++ rest)
    (hlen : fails.length = 10) (hf : ∀ f ∈ fails, answerOpens f (s.disk.get s.xdrv).media = false) :
    reopenStep s = { s with
      status := setErrorBit s.status
      drv := s.drv.set s.xdrv { s.drv.get s.xdrv with ready := false }
      disk := s.disk.set s.xdrv { s.disk.get s.xdrv with isOpen := false, roHandle := false, pos := 0 }
      storeReqs := s.storeReqs + 11
      storeAnswers := rest
      xstep := .s6 } := by
  have hne : fails ≠ [] := List.ne_nil_of_length_pos (by omega)
  rw [reopenStep_eq_loop, ← hlen, reopenLoop_failure s.xdrv rest fails _ (by simpa using hans) (by simpa using hf)]
  simp [storeClose, State.setReady, State.setDrive, State.setDisk, State.issue, hne, hlen]

/-- Step 5 leaves every backing file alone. -/
theorem reopenStep_sameFile (d : Slot) (s : State) : SameFile d s (reopenStep s) := by
  have hbytes : SameBytes s (reopenStep s) := sameBytes_reopen s.xdrv s
  obtain ⟨others, -, media⟩ := (reopenStep_frame s).2
  refine hbytes.sameFile ?_
  by_cases hd : d = s.xdrv
  · rw [hd, media]
  · rw [(others d hd).2]

theorem reopenStep_sameFifo (s : State) : SameFifo s (reopenStep s) :=
  sameFifo_of_eq (reopenStep_frame s).1.cur (reopenStep_frame s).1.fifo

theorem reopenStep_handlerSideSame (s : State) : HandlerSideSame s (reopenStep s) :=
  (reopenStep_frame s).1.handlerSideSame

/-- Settles O34: the equation of the successful step 5, read field by field, and the step's frames. -/
theorem reopenStopsAtFirstSuccess : Obligations.ReopenStopsAtFirstSuccess := by
  intro s i fails rest a hi hx hstuck hans hlen hf ha
  have e := reopenStep_success hans hlen hf ha
  refine ⟨reopenStep s, exec_reopen hi hx hstuck, ?_⟩
  have hothers := (reopenStep_frame s).2.others
  have hfile := fun d => reopenStep_sameFile d s
  have hfifo := reopenStep_sameFifo s
  have hside := reopenStep_handlerSideSame s
  rw [e] at hothers hfile hfifo hside ⊢
  exact ⟨rfl, rfl, Quad.get_set_same .., by simp, by simp, by simp, ⟨rfl, rfl, rfl, rfl, rfl, rfl⟩, rfl, rfl, rfl, rfl,
    rfl, hothers, hfile, hfifo, hside⟩

/-- Settles O35: the equation of the step 5 that gives up, read field by field, and the step's frames. -/
theorem reopenGivesUpAfterTen : Obligations.ReopenGivesUpAfterTen := by
  intro s i fails rest hi hx hstuck hans hlen hf
  have e := reopenStep_failure hans hlen hf
  refine ⟨reopenStep s, exec_reopen hi hx hstuck, ?_⟩
  have hothers := (reopenStep_frame s).2.others
  have hfile := fun d => reopenStep_sameFile d s
  have hfifo := reopenStep_sameFifo s
  have hside := reopenStep_handlerSideSame s
  rw [e] at hothers hfile hfifo hside ⊢
  exact ⟨rfl, rfl, Quad.get_set_same .., by simp, errorBit_setErrorBit _, pattern_setErrorBit _, rfl, rfl, rfl, rfl,
    rfl, rfl, rfl, rfl, rfl, rfl, hothers, hfile, hfifo, hside⟩

end Sys2Proof.Machine
end

/-! ## The invariant (R12, R15, R17, R19, R26, R27, R29, R139): what the shared operations keep -/
section
namespace Sys2Proof.Machine

variable {s : State}

/-- The invariant does not speak of what the HOST has still to present. -/
theorem legal_hostEvents (h : Legal s) (es : List HostEvent) : Legal { s with hostEvents := es } := { h with }

theorem legal_setError (h : Legal s) : Legal s.setError :=
  { h with statusTwelve := by simpa using h.statusTwelve }

theorem legal_clearError (h : Legal s) : Legal s.clearError :=
  { h with statusTwelve := by simpa [State.clearError] using h.statusTwelve }

theorem legal_setPattern (h : Legal s) {p : Byte} (hp : statusLegal p = true) : Legal (s.setPattern p) :=
  { h with statusTwelve := statusLegal_setPattern _ hp }

/-- The dispatcher goes idle with nothing owed, or with PENDING kept for a Reset (R150). -/
theorem legal_finish (h : Legal s) : Legal (finish s) :=
  { h with
    idleUnlessPending := fun _ => rfl
    rerunOnlyPending := nofun
    stepListed := nofun
    validated := nofun }

/-- The end of a critical section. -/
theorem legal_exclClear (h : Legal s) : Legal { s with excl := false } := { h with exclStuck := nofun }

/-- The running command goes on to a later step of its list. -/
theorem legal_advance (h : Legal s) {x : CmdStep} (hlast : x.number ≤ lastStep (decodeCommand s.xcmd))
    (hvalid : validates (decodeCommand s.xcmd) → (s.drv.get s.xdrv).valid = true) : Legal { s with xstep := x } :=
  { h with
    stepListed := fun _ => hlast
    validated := fun _ hv _ => hvalid hv }

theorem legal_fifoReset (h : Legal s) : Legal (fifoReset s) := { h with cursorWithin := Nat.zero_le _ }

theorem legal_fifoReadNext (h : Legal s) : Legal (fifoReadNext s) := by
  rcases fifoReadNext_cases s with ⟨hc, e⟩ | ⟨-, e⟩ <;> rw [e]
  · exact { h with cursorWithin := hc }
  · exact { h with }

/-- A byte written below capacity stays below it (R139). -/
theorem legal_fifoWriteNext (h : Legal s) (b : Byte) : Legal (fifoWriteNext b s) := by
  rcases fifoWriteNext_cases b s with ⟨hc, e⟩ | ⟨-, e⟩ <;> rw [e]
  · exact { h with
      cursorWithin := hc
      fifoCanonical := Memory.write_wf _ _ _ h.fifoCanonical
      fifoWithin := fun i hi =>
        (Memory.read?_write_other _ _ _ _ (hc.trans_le hi).ne').trans (h.fifoWithin i hi) }
  · exact { h with }

/-- A block no longer than the FIFO stays inside it (R137, R139). -/
theorem legal_bulkIn (h : Legal s) {data : List Byte} (hlen : data.length ≤ Config.fifoCap) :
    Legal (bulkIn data s) := by
  refine { h with
    fifoCanonical := Memory.writeRun_wf _ _ _ h.fifoCanonical
    fifoWithin := fun i hi => ?_ }
  have hout : i < 0 ∨ 0 + data.length ≤ i := .inr ((Nat.zero_add _).trans_le (hlen.trans hi))
  exact (Memory.read?_writeRun_outside _ _ _ _ hout).trans (h.fifoWithin i hi)

/-- A drive's file and its ready flag change together (R29); the validated address is not theirs. -/
theorem legal_setFile (h : Legal s) (d : Slot) {f : DiskFile} (hf : f.bytes.wf) :
    Legal ((s.setDisk d f).setReady d f.isOpen) := by
  have hready : ∀ e, (((s.setDisk d f).setReady d f.isOpen).drv.get e).ready =
      (((s.setDisk d f).setReady d f.isOpen).disk.get e).isOpen := fun e => by
    by_cases he : e = d
    · simp [he]
    · simpa [Quad.get_set_other, he] using h.readyOpen e
  exact { h with
    diskCanonical := Quad.forall_get_set (p := fun _ (f : DiskFile) => f.bytes.wf) h.diskCanonical hf
    configured := Quad.forall_get_set (p := fun e (v : Drive) => v.geometry = Config.geom e) h.configured
      (h.configured d)
    sizeKnown := Quad.forall_get_set (p := fun _ (v : Drive) => v.curSize = 0 ∨ v.curSize = 256) h.sizeKnown
      (h.sizeKnown d)
    readyOpen := hready
    validated := fun hx hv hs =>
      (Quad.apply_get_set Drive.valid s.drv d (x := { s.drv.get d with ready := f.isOpen }) rfl s.xdrv).trans
        (h.validated hx hv hs) }

/-- A descriptor's working fields change while no address is validated: the configured fields and the ready flag stay,
and the sector size is a known one. -/
theorem legal_setDrive (h : Legal s) (d : Slot) {v : Drive} (hgeo : v.geometry = (s.drv.get d).geometry)
    (hsize : v.curSize = 0 ∨ v.curSize = 256) (hready : v.ready = (s.drv.get d).ready)
    (hstep : s.dstate = .executing → s.xstep = .s3) : Legal (s.setDrive d v) :=
  { h with
    configured := Quad.forall_get_set (p := fun e (w : Drive) => w.geometry = Config.geom e) h.configured
      (hgeo.trans (h.configured d))
    sizeKnown := Quad.forall_get_set (p := fun _ (w : Drive) => w.curSize = 0 ∨ w.curSize = 256) h.sizeKnown hsize
    readyOpen := Quad.forall_get_set (p := fun e (w : Drive) => w.ready = (s.disk.get e).isOpen) h.readyOpen
      (hready.trans (h.readyOpen d))
    validated := fun hx _ hs => absurd (hstep hx) hs }

/-- Writing the ready flag's own value changes nothing. -/
theorem setReady_self {d : Slot} {b : Bool} (hb : (s.drv.get d).ready = b) : s.setReady d b = s := by
  subst hb
  exact congrArg (fun q => { s with drv := q }) (Quad.set_get s.drv d)

/-- A request that neither opens nor closes the file leaves the ready flag right (R29). -/
theorem legal_setDisk (h : Legal s) (d : Slot) {f : DiskFile} (hf : f.bytes.wf)
    (hopen : f.isOpen = (s.disk.get d).isOpen) : Legal (s.setDisk d f) := by
  have hready : (s.setDisk d f).setReady d f.isOpen = s.setDisk d f :=
    setReady_self (s := s.setDisk d f) ((h.readyOpen d).trans hopen.symm)
  exact hready ▸ legal_setFile h d hf

theorem legal_issue (h : Legal s) : Legal s.issue := { h with }

theorem legal_issueAnswered (h : Legal s) : Legal s.issueAnswered := { h with }

theorem legal_storeSeek (h : Legal s) (d : Slot) (off : Nat) : Legal (storeSeek d off s) :=
  legal_setDisk (legal_issue h) d (h.diskCanonical d) rfl

theorem legal_storeWrite (h : Legal s) (d : Slot) (data : List Byte) : Legal (storeWrite d data s) :=
  legal_setDisk (legal_issueAnswered h) d (Memory.writeRun_wf _ _ _ (h.diskCanonical d)) rfl

/-- Every chunk of Format's fill is a write (R169). -/
theorem legal_fillTrack (d : Slot) (ns : List Nat) : ∀ {s : State}, Legal s → Legal (fillTrack d ns s) := by
  induction ns with
  | nil => exact fun h => h
  | cons n ns ih =>
    intro s h
    unfold fillTrack
    split
    · exact ih (legal_storeWrite h d _)
    · exact legal_setError (legal_storeWrite h d _)

/-- An open attempt with its result in the ready flag (R29, R51). -/
theorem legal_storeOpen_setReady (h : Legal s) (d : Slot) : Legal ((storeOpen d s).setReady d (openOk d s)) :=
  legal_setFile (legal_issueAnswered h) d (h.diskCanonical d)

/-- A refused open leaves a drive that was not ready as it was. -/
theorem legal_storeOpen_refused (h : Legal s) {d : Slot} (hready : (s.drv.get d).ready = false)
    (hopen : openOk d s = false) : Legal (storeOpen d s) :=
  legal_setDisk (legal_issueAnswered h) d (h.diskCanonical d) (hopen.trans (hready.symm.trans (h.readyOpen d)))

/-- Reopen's attempts, from a drive that is not ready (R152). -/
theorem legal_reopenLoop (d : Slot) (n : Nat) :
    ∀ {s : State}, Legal s → (s.drv.get d).ready = false → Legal (reopenLoop d n s) := by
  induction n with
  | zero =>
    intro s h hready
    rw [reopenLoop, raise_reopenFailed, setReady_self (s := s.setError) hready]
    exact legal_setError h
  | succ n ih =>
    intro s h hready
    unfold reopenLoop
    split
    next hok => exact hok ▸ legal_storeOpen_setReady h d
    next hno => exact ih (legal_storeOpen_refused h hready (Bool.eq_false_iff.mpr hno)) hready

theorem legal_reopen (h : Legal s) (d : Slot) : Legal (reopen d s) :=
  legal_reopenLoop d _ (legal_setFile (legal_issue h) d (h.diskCanonical d)) (by simp)

end Sys2Proof.Machine
end

/-! ## The invariant: bus transactions and captures -/
section
namespace Sys2Proof.Machine

variable {s : State}

theorem legal_endService (h : Legal s) : Legal (endService s) :=
  { h with capturedSelected := nofun, busSafe := rfl }

/-- The drivers are on output only inside the service step (R101). -/
theorem legal_finishRead (h : Legal s) (v : Byte) : Legal (finishRead v s) :=
  { h with capturedSelected := nofun, busSafe := rfl }

theorem legal_holdWrite (h : Legal s) (k : Slot) (b : Byte) : Legal (holdWrite k b s) := { h with }

theorem legal_commandBurst (h : Legal s) : Legal (commandBurst s) :=
  { h with statusTwelve := statusLegal_setPattern _ (by decide) }

/-- The sector a parameter burst commits is HOLD[0], whose bit 7 is the trigger's 0 (R12, R75). -/
theorem legal_parameterBurst (h : Legal s) (hsector : s.hold.s0.getLsbD 7 = false) : Legal (parameterBurst s) := by
  have hcommit : Legal (commitParameterBurst s) :=
    { h with statusTwelve := statusLegal_setPattern _ (by decide), sectorLow := hsector }
  rcases parameterBurst_cases s with ⟨-, e⟩ | ⟨hp, -, e⟩ | ⟨-, -, e⟩ <;> rw [e]
  · exact { hcommit with
      statusTwelve := statusLegal_setPattern _ (by decide)
      idleUnlessPending := nofun
      rerunOnlyPending := fun _ => rfl }
  · exact { hcommit with rerunOnlyPending := fun _ => hp }
  · exact { hcommit with }

/-- Every bus transaction keeps the legal states legal. -/
theorem legal_busStep {i : Instr} {t : State} (h : Legal s) (hb : i.isBus = true) (hx : exec i s = .next t) :
    Legal t := by
  have htrigger : ∀ sector : BitVec 7, (triggerByte false sector).getLsbD 7 = false := by decide
  rcases busStep_cases hb hx with ⟨-, v, rfl⟩ | ⟨-, rfl⟩ | ⟨b, -, rfl⟩ | ⟨k, b, -, rfl⟩ | ⟨b, -, rfl⟩ |
    ⟨off, b, -, rfl⟩ | ⟨op, -, rfl⟩ | ⟨sector, -, rfl⟩
  · exact legal_finishRead h v
  · exact legal_finishRead (legal_fifoReadNext h) _
  · exact legal_endService (legal_fifoWriteNext h b)
  · exact legal_endService (legal_holdWrite h k b)
  · exact legal_endService (legal_fifoReset h)
  · exact legal_endService h
  · exact legal_endService (legal_commandBurst (legal_holdWrite h 0 _))
  · exact legal_endService (legal_parameterBurst (legal_holdWrite h 0 _) (htrigger sector))

/-- A capture latches selected offsets only (R96, R97). -/
theorem legal_presentCycle (h : Legal s) (c : BusCycle) : Legal (presentCycle c s) := by
  unfold presentCycle
  split
  next hsel => exact { h with capturedSelected := fun _ => hsel }
  next => exact h

end Sys2Proof.Machine
end

/-! ## The invariant: the dispatcher -/
section
namespace Sys2Proof.Machine

variable {s : State}

/-- The Entry step's snapshot sets the working fields alone (R147). -/
theorem legal_entryStep (h : Legal s) (hd : s.dstate = .idle) (hp : s.pending = true) : Legal (entryStep s) := by
  have hsnapshot : Legal (s.setDrive s.sel ((s.drv.get s.sel).loadWorking s.tf)) :=
    legal_setDrive h s.sel rfl (.inr rfl) rfl fun hx => absurd (hd.symm.trans hx) nofun
  exact { hsnapshot with
    idleUnlessPending := fun hn => absurd (hp.symm.trans hn) nofun
    exclStuck := nofun
    stepListed := nofun
    validated := nofun }

/-- Every command has a step 3. -/
theorem three_le_lastStep (op : Opcode) : 3 ≤ lastStep (decodeCommand op) := by
  revert op
  decide

theorem legal_dispatchStep (h : Legal s) (hd : s.dstate = .decoding) : Legal (dispatchStep s) :=
  { h with
    idleUnlessPending := fun hn => absurd (hd.symm.trans (h.idleUnlessPending hn)) nofun
    stepListed := fun _ => three_le_lastStep s.xcmd
    validated := fun _ _ hx => absurd rfl hx }

/-- A validation that passes goes on with a validated address, one that fails aborts (R56, R151). -/
theorem legal_validateStep (h : Legal s) (hlast : 4 ≤ lastStep (decodeCommand s.xcmd)) : Legal (validateStep s) := by
  rcases validateStep_cases s with ⟨hvalid, e⟩ | e <;> rw [e]
  · exact legal_advance (legal_clearError h) hlast fun _ => hvalid
  · exact legal_finish (legal_setError h)

/-- Format's forced sector comes before the validation (R169). -/
theorem legal_clearSector (h : Legal s) (hx : s.xstep = .s3) : Legal (clearSector s) :=
  legal_setDrive h s.xdrv rfl (h.sizeKnown s.xdrv) rfl fun _ => hx

/-- Reset's step: an idle machine with fresh descriptors, files open exactly where ready (R166, R29). -/
theorem legal_resetStep (h : Legal s) : Legal (resetStep s) := by
  have hsector : TaskFile.zero.sector.getLsbD 7 = false := by decide
  rw [resetStep_eq, reinit_eq]
  exact { h with
    statusTwelve := statusLegal_powerOn _
    idleUnlessPending := fun _ => rfl
    rerunOnlyPending := nofun
    sectorLow := hsector
    diskCanonical := forall_slot (h.diskCanonical 0) (h.diskCanonical 1) (h.diskCanonical 2) (h.diskCanonical 3)
    configured := forall_slot rfl rfl rfl rfl
    sizeKnown := forall_slot (.inl rfl) (.inl rfl) (.inl rfl) (.inl rfl)
    readyOpen := forall_slot rfl rfl rfl rfl
    exclStuck := nofun
    stepListed := nofun
    validated := nofun }

/-- Read's transfer keeps the file's bytes and fills at most the FIFO (R137, R167). -/
theorem legal_readTransfer (h : Legal s) (hlen : (readTransferData s).length ≤ Config.fifoCap)
    (hlast : 5 ≤ lastStep (decodeCommand s.xcmd))
    (hvalid : validates (decodeCommand s.xcmd) → (s.drv.get s.xdrv).valid = true) : Legal (readTransfer s) := by
  have hdisk : Legal (s.setDisk s.xdrv
      { soughtFile s.xdrv s with pos := (soughtFile s.xdrv s).pos + (readTransferData s).length }) :=
    legal_setDisk h s.xdrv (h.diskCanonical s.xdrv) rfl
  have hmoved := legal_exclClear (legal_advance (x := .s5) (legal_bulkIn hdisk hlen) hlast hvalid)
  rw [readTransfer_eq]
  exact { hmoved with statusTwelve := statusLegal_noteShort h.statusTwelve }

/-- Write's transfer writes a run of bytes into the drive's file (R168). -/
theorem legal_writeTransfer (h : Legal s) (hlast : 5 ≤ lastStep (decodeCommand s.xcmd))
    (hvalid : validates (decodeCommand s.xcmd) → (s.drv.get s.xdrv).valid = true) : Legal (writeTransfer s) := by
  have hdisk : Legal (s.setDisk s.xdrv
      ((soughtFile s.xdrv s).accept (bulkOut (s.drv.get s.xdrv).transferLength s) (writeTransferCount s))) :=
    legal_setDisk h s.xdrv (Memory.writeRun_wf _ _ _ (h.diskCanonical s.xdrv)) rfl
  have hmoved := legal_exclClear (legal_advance (x := .s5) hdisk hlast hvalid)
  rw [writeTransfer_eq]
  exact { hmoved with statusTwelve := statusLegal_noteShort h.statusTwelve }

/-- The parameter table fits the FIFO (R171). -/
theorem legal_paramsTransfer (h : Legal s) (hlast : 4 ≤ lastStep (decodeCommand s.xcmd))
    (hvalid : validates (decodeCommand s.xcmd) → (s.drv.get s.xdrv).valid = true) : Legal (paramsTransfer s) := by
  have hlen : Config.paramTable.length ≤ Config.fifoCap :=
    calc Config.paramTable.length = 108 := by simp [Config.paramTable]
      _ ≤ 65280 := by decide
      _ ≤ Config.fifoCap := le_fifoCap
  rw [paramsTransfer_eq]
  -- only the table's length matters; its 108 entries are kept from being evaluated
  generalize Config.paramTable = table at hlen ⊢
  exact legal_exclClear (legal_advance (x := .s4) (legal_bulkIn h hlen) hlast hvalid)

/-- A command's completion step (R150). -/
theorem legal_completionStep (h : Legal s) {p : Byte} (hp : p = stData ∨ p = stWdone ∨ p = stFdone) :
    Legal (critical (complete p) s) := by
  show Legal { finish (s.setPattern p) with excl := false }
  exact legal_exclClear (legal_finish (legal_setPattern h (statusLegal_completion hp)))

/-- A state whose command, drive and addresses a Store sequence kept goes on to a later step. -/
theorem legal_advance_of_frame {u : State} {x : CmdStep} (hu : Legal u) (hframe : StoreFrame s u)
    (hdrive : DriveFrame s.xdrv s u) (hlast : x.number ≤ lastStep (decodeCommand s.xcmd))
    (hvalid : validates (decodeCommand s.xcmd) → (s.drv.get s.xdrv).valid = true) : Legal { u with xstep := x } := by
  have haddress : (u.drv.get s.xdrv).valid = (s.drv.get s.xdrv).valid := by
    rw [hdrive.descriptor]
    rfl
  refine legal_advance hu (by rwa [hframe.xcmd]) fun hv => ?_
  rw [hframe.xdrv, haddress]
  exact hvalid (hframe.xcmd ▸ hv)

/-- Every step of a disk command keeps the legal states legal. -/
theorem legal_commandStep {i : Instr} {t : State} (h : Legal s) (hd : s.dstate = .executing)
    (hi : decodeCommand s.xcmd = i) (k : CommandStep i s t) : Legal t := by
  have hvalid {x : CmdStep} (hx : s.xstep = x) (hne : x ≠ .s3) :
      validates (decodeCommand s.xcmd) → (s.drv.get s.xdrv).valid = true :=
    fun hv => h.validated hd hv (hx ▸ hne)
  cases k with
  | stuck _ _ _ hs => exact { h with exclStuck := fun _ => hs }
  | reset => exact legal_resetStep h
  | validate _ _ hv => exact legal_validateStep h (by rcases hv with rfl | rfl <;> rw [hi] <;> decide)
  | validateFormat _ hx => exact legal_validateStep (legal_clearSector h hx) (by
      show 4 ≤ lastStep (decodeCommand s.xcmd)
      rw [hi]
      decide)
  | readTransfer _ hx hlen => exact legal_readTransfer h hlen (by rw [hi]; decide) (hvalid hx nofun)
  | writeTransfer _ hx => exact legal_writeTransfer h (by rw [hi]; decide) (hvalid hx nofun)
  | fill _ hx =>
    exact legal_advance_of_frame (legal_fillTrack _ _ (legal_storeSeek h _ _))
      ((storeFrame_storeSeek _ _ s).trans (storeFrame_fillTrack _ _ _))
      ((driveFrame_storeSeek _ _ s).trans (driveFrame_fillTrack _ _ _)) (by rw [hi]; decide) (hvalid hx nofun)
  | reopen _ _ hv hx =>
    exact legal_advance_of_frame (legal_reopen h _) (storeFrame_reopen _ s) (driveFrame_reopen _ s)
      (by rcases hv with rfl | rfl <;> rw [hi] <;> decide) (hvalid hx nofun)
  | params =>
    have hnone : ¬ validates (decodeCommand s.xcmd) := by simp [hi, validates]
    exact legal_paramsTransfer h (by rw [hi]; decide) fun hv => absurd hv hnone
  | fifo => exact legal_completionStep (legal_fifoReset h) (.inr (.inr rfl))
  | complete _ _ _ _ _ _ hp => exact legal_completionStep h hp

/-- Every dispatcher step keeps the legal states legal (R145). -/
theorem legal_dispatcherTurn {t : State} (h : Legal s) (hx : dispatcherTurn s = .next t) : Legal t := by
  rcases dispatcherTurn_cases hx with ⟨-, -, rfl⟩ | ⟨hd, hp, rfl⟩ | ⟨hd, rfl⟩ | ⟨hd, hx⟩
  · exact h
  · exact legal_entryStep h hd hp
  · exact legal_dispatchStep h hd
  · exact legal_commandStep h hd rfl (commandStep_of_exec (decodeCommand_isBus _) hx)

end Sys2Proof.Machine
end

/-! ## The invariant, settled -/
section
namespace Sys2Proof.Machine

/-- Settles O49: by whose step it is, each agent's steps keeping the invariant. -/
theorem stepKeepsLegalStates : Obligations.StepKeepsLegalStates := by
  intro s t h hx
  cases machineStep_of_step hx with
  | service i _ _ _ _ hdecode he => exact legal_busStep h (isBus_of_decodeBus hdecode) he
  | present c rest => exact legal_presentCycle (legal_hostEvents h rest) c
  | quiet rest _ _ _ _ hturn => exact legal_dispatcherTurn (legal_hostEvents h rest) hturn
  | dispatcher _ _ _ hturn => exact legal_dispatcherTurn h hturn

end Sys2Proof.Machine
end

/-! # Family 20_memory: validation, translation, transfers, Format's fill, drive isolation -/

/-! ## Lengths and the translation of addresses (R56 to R58) -/
section
namespace Sys2Proof.Machine

/-- Settles O44: the length laws of Laws/Commands. -/
theorem transferFitsFifo : Obligations.TransferFitsFifo :=
  fun v h => ⟨transferLength_le v h, transferLength_le_fifoCap v h⟩

/-- A digit `b` below the base `n` behind a leading part `a` below `m`: the number is below `m * n`. -/
theorem mixedRadix_lt {a b m n : Nat} (ha : a < m) (hb : b < n) : a * n + b < m * n :=
  calc a * n + b < (a + 1) * n := by rw [Nat.succ_mul]; exact Nat.add_lt_add_left hb _
    _ ≤ m * n := Nat.mul_le_mul_right n ha

/-- A number determines its leading part and its last digit. -/
theorem mixedRadix_inj {a b a' b' n : Nat} (hb : b < n) (hb' : b' < n) (h : a * n + b = a' * n + b') :
    a = a' ∧ b = b' := by
  have digits : ∀ {x y}, y < n → (x * n + y) / n = x ∧ (x * n + y) % n = y := fun hy =>
    (Nat.div_mod_unique (Nat.zero_lt_of_lt hy)).mpr ⟨by rw [Nat.add_comm, Nat.mul_comm], hy⟩
  obtain ⟨hdiv, hmod⟩ := digits (x := a) hb
  obtain ⟨hdiv', hmod'⟩ := digits (x := a') hb'
  exact ⟨hdiv.symm.trans ((congrArg (· / n) h).trans hdiv'), hmod.symm.trans ((congrArg (· % n) h).trans hmod')⟩

/-- The byte offset is the linear sector number times 256 (R57). -/
theorem Drive.byteOffset_eq (v : Drive) : v.byteOffset = v.linearSector * 256 := Nat.shiftLeft_eq _ _

/-- A validated address is one of the disk's sectors (R56, R57). -/
theorem Drive.linearSector_lt {v : Drive} (h : v.valid = true) :
    v.linearSector < v.cyls.toNat * v.heads.toNat * v.spt.toNat := by
  obtain ⟨hcyl, hhead, hsec, -⟩ := v.valid_iff.mp h
  exact mixedRadix_lt (mixedRadix_lt hcyl hhead) hsec

/-- Settles O42: a sector number below the disk's number of sectors. -/
theorem validatedSectorLiesInsideDisk : Obligations.ValidatedSectorLiesInsideDisk := by
  intro v h hsize hdisk
  obtain ⟨-, -, -, hsame⟩ := v.valid_iff.mp h
  have hsecsize : v.secsize.toNat = 256 := by rw [← hsame, hsize]; rfl
  have hlt := Drive.linearSector_lt h
  rw [hsecsize] at hdisk
  rw [v.byteOffset_eq]
  generalize v.cyls.toNat * v.heads.toNat * v.spt.toNat = sectors at hlt hdisk ⊢
  omega

/-- Settles O43: the digits of the linear sector number are the address. -/
theorem translationIsInjective : Obligations.TranslationIsInjective := by
  intro v w hv hw hgeo hoff
  obtain ⟨-, hhead, hsec, -⟩ := v.valid_iff.mp hv
  obtain ⟨-, hhead', hsec', -⟩ := w.valid_iff.mp hw
  have hspt : v.spt = w.spt := congrArg Geometry.spt hgeo
  have hheads : v.heads = w.heads := congrArg Geometry.heads hgeo
  rw [hspt] at hsec
  rw [hheads] at hhead
  rw [v.byteOffset_eq, w.byteOffset_eq] at hoff
  have hlinear : v.linearSector = w.linearSector := Nat.eq_of_mul_eq_mul_right (by decide) hoff
  unfold Drive.linearSector at hlinear
  rw [hspt, hheads] at hlinear
  obtain ⟨htrack, hsector⟩ := mixedRadix_inj hsec hsec' hlinear
  obtain ⟨hcyl, hside⟩ := mixedRadix_inj hhead hhead' htrack
  exact ⟨BitVec.eq_of_toNat_eq hcyl, BitVec.eq_of_toNat_eq hside, BitVec.eq_of_toNat_eq hsector⟩

end Sys2Proof.Machine
end

/-! ## The steps of Read, Write and Format at each step index (R153, R167 to R169) -/
section
namespace Sys2Proof.Machine

theorem exec_validate {i : Instr} {s : State} (hi : i = .read ∨ i = .write) (hx : s.xstep = .s3) :
    exec i s = .next (validateStep s) := by
  rcases hi with rfl | rfl
  · simp [exec, execRead, hx]
  · simp [exec, execWrite, hx]

theorem exec_validateFormat {s : State} (hx : s.xstep = .s3) : exec .format s = .next (validateStep (clearSector s)) := by
  simp [exec, execFormat, hx]

/-- Read's step 4, stuck or not; what the STORE answers fits the FIFO (R137, R167). -/
theorem exec_readTransfer {s : State} (hx : s.xstep = .s4)
    (hfit : (s.drv.get s.xdrv).transferLength ≤ Config.fifoCap) :
    exec .read s = .next (awaitStore true s (readTransfer s)) := by
  have hlen : (readTransferData s).length ≤ Config.fifoCap := (length_readData_le _ _ _).trans hfit
  simp only [exec, execRead, hx, if_pos hlen]

/-- Write's step 4, stuck or not (R168). -/
theorem exec_writeTransfer {s : State} (hx : s.xstep = .s4)
    (hfit : (s.drv.get s.xdrv).transferLength ≤ Config.fifoCap) :
    exec .write s = .next (awaitStore true s (writeTransfer s)) := by
  simp only [exec, execWrite, hx, if_pos hfit]

theorem exec_fill {s : State} (hx : s.xstep = .s4) (h : s.storeStuck = false) : exec .format s = .next (fillStep s) := by
  simp [exec, execFormat, hx, awaitStore, h]

theorem exec_completeRead {s : State} (hx : s.xstep = .s5) : exec .read s = .next (critical (complete stData) s) := by
  simp [exec, execRead, hx]

theorem exec_completeWrite {s : State} (hx : s.xstep = .s6) :
    exec .write s = .next (critical (complete stWdone) s) := by
  simp [exec, execWrite, hx]

theorem awaitStore_answered {s : State} (b : Bool) (t : State) (h : s.storeStuck = false) : awaitStore b s t = t := by
  simp [awaitStore, h]

/-- A stuck critical section leaves EXCL set and all else as it was (R154, log 9). -/
theorem awaitStore_stuck {s : State} (t : State) (h : s.storeStuck = true) :
    awaitStore true s t = { s with excl := true } := by
  simp [awaitStore, h]

end Sys2Proof.Machine
end

/-! ## Validation (R56, R151, R169) -/
section
namespace Sys2Proof.Machine

/-- Validation fails exactly where one of the four conditions of R56 does. -/
theorem Drive.not_valid_iff (v : Drive) :
    ¬ v.valid = true ↔ v.cyls.toNat ≤ v.curCyl.toNat ∨ v.heads.toNat ≤ v.curHead.toNat ∨
      v.spt.toNat ≤ v.curSec.toNat ∨ v.curSize ≠ v.secsize := by
  rw [v.valid_iff]
  simp only [not_and_or, not_lt, ne_eq]

/-- Settles O26: a failed validation aborts. -/
theorem failedValidationAbortsReadWrite : Obligations.FailedValidationAbortsReadWrite := by
  intro s i hi hx hbad
  have hinvalid := (s.drv.get s.xdrv).not_valid_iff.mpr hbad
  refine ⟨validateStep s, exec_validate hi hx, ?_⟩
  rw [validateStep_fail hinvalid]
  exact ⟨errorBit_setErrorBit _, pattern_setErrorBit _, ⟨rfl, rfl, rfl⟩, rfl, rfl, rfl, rfl, rfl, rfl, rfl, rfl,
    sameFifo_of_eq rfl rfl, ⟨rfl, rfl, rfl, rfl⟩, .refl s⟩

/-- Settles O27: a passed validation goes on to step 4. -/
theorem passedValidationClearsError : Obligations.PassedValidationClearsError := by
  intro s i hi hx hcyl hhead hsec hsize
  have hvalid := (s.drv.get s.xdrv).valid_iff.mpr ⟨hcyl, hhead, hsec, hsize⟩
  refine ⟨validateStep s, exec_validate hi hx, ?_⟩
  rw [validateStep_pass hvalid]
  exact ⟨errorBit_clearErrorBit _, pattern_clearErrorBit _, rfl, rfl, rfl, rfl, rfl, rfl, rfl, rfl, rfl, rfl, rfl,
    sameFifo_of_eq rfl rfl, ⟨rfl, rfl, rfl, rfl⟩, .refl s⟩

/-- What no validation touches: the pattern, HOLD, the task file, SEL, XCMD, XDRV, the descriptors, EXCL, the FIFO, the
STORE and the handler's side (R56, R151). -/
theorem validateStep_frame (s : State) :
    pattern (validateStep s).status = pattern s.status ∧ (validateStep s).drv = s.drv ∧
      (validateStep s).hold = s.hold ∧ (validateStep s).tf = s.tf ∧ (validateStep s).sel = s.sel ∧
      (validateStep s).xcmd = s.xcmd ∧ (validateStep s).xdrv = s.xdrv ∧ (validateStep s).excl = s.excl ∧
      SameFifo s (validateStep s) ∧ SameStore s (validateStep s) ∧ HandlerSideSame s (validateStep s) := by
  rcases validateStep_cases s with ⟨-, e⟩ | e <;> rw [e]
  · exact ⟨pattern_clearErrorBit _, rfl, rfl, rfl, rfl, rfl, rfl, rfl, sameFifo_of_eq rfl rfl, ⟨rfl, rfl, rfl, rfl⟩,
      .refl s⟩
  · exact ⟨pattern_setErrorBit _, rfl, rfl, rfl, rfl, rfl, rfl, rfl, sameFifo_of_eq rfl rfl, ⟨rfl, rfl, rfl, rfl⟩,
      .refl s⟩

/-- With the working sector forced to 0 the sector condition of R56 says that the drive has sectors (R169). -/
theorem clearSector_valid_iff (s : State) :
    ((clearSector s).drv.get s.xdrv).valid = true ↔
      0 < (s.drv.get s.xdrv).spt.toNat ∧ (s.drv.get s.xdrv).curCyl.toNat < (s.drv.get s.xdrv).cyls.toNat ∧
        (s.drv.get s.xdrv).curHead.toNat < (s.drv.get s.xdrv).heads.toNat ∧
        (s.drv.get s.xdrv).curSize = (s.drv.get s.xdrv).secsize := by
  rw [drv_get_clearSector, if_pos rfl, Drive.valid_iff]
  show _ ∧ _ ∧ 0 < _ ∧ _ ↔ _
  tauto

/-- Settles O28: the two clauses are the two ends of the validation, whose sector condition is that of sector 0. -/
theorem formatValidationIgnoresSector : Obligations.FormatValidationIgnoresSector := by
  intro s hx
  refine ⟨validateStep (clearSector s), exec_validateFormat hx, fun hgood => ?_, fun hbad => ?_, ?_⟩
  · have hvalid := (clearSector_valid_iff s).mpr hgood
    rw [validateStep_pass (s := clearSector s) hvalid]
    exact ⟨errorBit_clearErrorBit _, rfl, rfl, rfl, rfl⟩
  · have hinvalid := mt (clearSector_valid_iff s).mp (by
      rintro ⟨hspt, hcyl, hhead, hsize⟩
      rcases hbad with h | h | h | h
      · exact hspt.ne' h
      · exact h.not_gt hcyl
      · exact h.not_gt hhead
      · exact h hsize)
    rw [validateStep_fail (s := clearSector s) hinvalid]
    exact ⟨errorBit_setErrorBit _, rfl, rfl, rfl, rfl⟩
  · obtain ⟨hpattern, hdrv, hrest⟩ := validateStep_frame (clearSector s)
    refine ⟨hpattern, ?_, fun d hd => ?_, hrest⟩
    · rw [hdrv, drv_get_clearSector, if_pos rfl]
    · rw [hdrv, drv_get_clearSector, if_neg hd]

end Sys2Proof.Machine
end

/-! ## Every command but Reset stays on its drive (R59, R147) -/
section
namespace Sys2Proof.Machine

/-- Every descriptor and every file but drive `d`'s is unchanged. -/
def OthersSame (d : Slot) (s t : State) : Prop := ∀ e, e ≠ d → t.drv.get e = s.drv.get e ∧ t.disk.get e = s.disk.get e

theorem othersSame_of_eq {d : Slot} {s t : State} (hdrv : t.drv = s.drv) (hdisk : t.disk = s.disk) : OthersSame d s t :=
  fun e _ => ⟨congrArg (·.get e) hdrv, congrArg (·.get e) hdisk⟩

/-- No bus transaction reaches the descriptors or the STORE (R103, R106). -/
theorem busStep_drv_disk {i : Instr} {s t : State} (hb : i.isBus = true) (h : exec i s = .next t) :
    t.drv = s.drv ∧ t.disk = s.disk := by
  rcases busStep_cases hb h with ⟨-, v, rfl⟩ | ⟨-, rfl⟩ | ⟨b, -, rfl⟩ | ⟨k, b, -, rfl⟩ | ⟨b, -, rfl⟩ |
    ⟨off, b, -, rfl⟩ | ⟨op, -, rfl⟩ | ⟨sector, -, rfl⟩
  · exact ⟨rfl, rfl⟩
  · rcases fifoReadNext_cases s with ⟨-, e⟩ | ⟨-, e⟩ <;> rw [e] <;> exact ⟨rfl, rfl⟩
  · rcases fifoWriteNext_cases b s with ⟨-, e⟩ | ⟨-, e⟩ <;> rw [e] <;> exact ⟨rfl, rfl⟩
  · exact ⟨rfl, rfl⟩
  · exact ⟨rfl, rfl⟩
  · exact ⟨rfl, rfl⟩
  · exact ⟨rfl, rfl⟩
  · rcases parameterBurst_cases (holdWrite 0 (triggerByte false sector) s) with ⟨-, e⟩ | ⟨-, -, e⟩ | ⟨-, -, e⟩ <;>
      rw [e] <;> exact ⟨rfl, rfl⟩

/-- Every step of a disk command but Reset stays on the command's drive. -/
theorem CommandStep.othersSame {i : Instr} {s t : State} (h : CommandStep i s t) (hi : i ≠ .reset) :
    OthersSame s.xdrv s t := by
  cases h with
  | stuck => exact othersSame_of_eq rfl rfl
  | reset => exact absurd rfl hi
  | validate =>
    obtain ⟨-, hdrv, -, -, -, -, -, -, -, hstore, -⟩ := validateStep_frame s
    exact othersSame_of_eq hdrv hstore.1
  | validateFormat =>
    obtain ⟨-, hdrv, -, -, -, -, -, -, -, hstore, -⟩ := validateStep_frame (clearSector s)
    exact fun e he => ⟨by rw [hdrv, drv_get_clearSector, if_neg he], congrArg (·.get e) hstore.1⟩
  | readTransfer =>
    rw [readTransfer_eq]
    exact fun e he => ⟨rfl, Quad.get_set_other _ _ _ _ he⟩
  | writeTransfer =>
    rw [writeTransfer_eq]
    exact fun e he => ⟨rfl, Quad.get_set_other _ _ _ _ he⟩
  | fill => exact (fillStep_frame s).2.others
  | reopen => exact (reopenStep_frame s).2.others
  | params =>
    rw [paramsTransfer_eq]
    exact othersSame_of_eq rfl rfl
  | fifo => exact othersSame_of_eq rfl rfl
  | complete => exact othersSame_of_eq rfl rfl

/-- Settles O57: a bus transaction reaches no drive, a command step its own. -/
theorem commandsStayOnTheirDrive : Obligations.CommandsStayOnTheirDrive := by
  intro i s t d hi h hd
  cases hb : i.isBus with
  | true =>
    obtain ⟨hdrv, hdisk⟩ := busStep_drv_disk hb h
    exact othersSame_of_eq (d := s.xdrv) hdrv hdisk d hd
  | false => exact (commandStep_of_exec hb h).othersSame hi d hd

end Sys2Proof.Machine
end

/-! ## A stuck critical section (R154, R62) -/
section
namespace Sys2Proof.Machine

/-- In a legal state no transfer exceeds the FIFO (R58 (c), R139). -/
theorem Legal.transferLength_le_fifoCap {s : State} (h : Legal s) (d : Slot) :
    (s.drv.get d).transferLength ≤ Config.fifoCap := by
  rcases h.sizeKnown d with hz | hsize
  · have hzero : (s.drv.get d).transferLength = 0 := by simp [Drive.transferLength, hz]
    exact hzero ▸ Nat.zero_le _
  · exact Machine.transferLength_le_fifoCap _ hsize

/-- The three critical sections with a Store request: Reset's step and the transfers of Read and Write (R153). -/
def InStoreSection (s : State) : Prop :=
  (s.xcmd = 0x00 ∧ s.xstep = .s3) ∨ (s.xcmd = 0x01 ∧ s.xstep = .s4) ∨ (s.xcmd = 0x02 ∧ s.xstep = .s4)

/-- Where the STORE has stopped answering, these steps set EXCL and are not left (R154, log 9). -/
theorem exec_stuckSection {s : State} (hstuck : s.storeStuck = true)
    (hfit : (s.drv.get s.xdrv).transferLength ≤ Config.fifoCap) (h : InStoreSection s) :
    exec (decodeCommand s.xcmd) s = .next { s with excl := true } := by
  rcases h with ⟨hc, -⟩ | ⟨hc, hx⟩ | ⟨hc, hx⟩
  · have hi : decodeCommand s.xcmd = .reset := by rw [hc]; rfl
    rw [hi]
    exact congrArg Host.Outcome.next (awaitStore_stuck (resetStep s) hstuck)
  · have hi : decodeCommand s.xcmd = .read := by rw [hc]; rfl
    rw [hi, exec_readTransfer hx hfit, awaitStore_stuck _ hstuck]
  · have hi : decodeCommand s.xcmd = .write := by rw [hc]; rfl
    rw [hi, exec_writeTransfer hx hfit, awaitStore_stuck _ hstuck]

/-- A state that a step does not change is never left. -/
theorem run_fixed {s : State} (h : step s = .next s) (n : Nat) : Host.Core.run core n s = .next s := by
  induction n with
  | zero => rfl
  | succ n ih => rw [run_succ n h, ih]

/-- Settles O48: the dispatcher's turn is the stuck step, which with EXCL already set changes nothing. -/
theorem stuckCriticalSectionStallsHost : Obligations.StuckCriticalSectionStallsHost := by
  intro s hlegal hstuck hexec hsection
  have hstep : ∀ es, DispatcherHasTurn s es → step s = .next { s with excl := true, hostEvents := es } := by
    intro es hturn
    have hturn' : dispatcherTurn { s with hostEvents := es } = exec (decodeCommand s.xcmd) { s with hostEvents := es } := by
      simp only [dispatcherTurn, hexec]
    rw [step_hasTurn hturn, hturn']
    exact exec_stuckSection (s := { s with hostEvents := es }) hstuck (hlegal.transferLength_le_fifoCap s.xdrv) hsection
  refine ⟨hstep, fun hw he => run_fixed ?_⟩
  have hsame : { s with excl := true, hostEvents := s.hostEvents } = s := by rw [← he]
  exact (hstep s.hostEvents (.inr (.inr ⟨hw, he, rfl⟩))).trans (congrArg _ hsame)

end Sys2Proof.Machine
end

/-! ## The transfers of Read and Write (R54, R55, R167, R168) -/
section
namespace Sys2Proof.Machine

/-- Nothing comes from a closed file (R52). -/
theorem readTransferData_closed {s : State} (h : (s.disk.get s.xdrv).isOpen = false) : readTransferData s = [] := by
  simp [readTransferData, readData, disk_get_readSeek, soughtFile, h]

/-- What the reference store answers Read's transfer: the file's bytes from the translated offset to the length asked for
or the file's end (R54). -/
theorem readTransferData_reference {s : State} {rest : List StoreAnswer} (ho : (s.disk.get s.xdrv).isOpen = true)
    (ha : s.storeAnswers = .reference :: rest) :
    readTransferData s = (List.range (min (s.drv.get s.xdrv).transferLength
        ((s.disk.get s.xdrv).len - (s.drv.get s.xdrv).byteOffset))).map
      fun k => (s.disk.get s.xdrv).byteAt s.xdrv ((s.drv.get s.xdrv).byteOffset + k) := by
  have hn : (readSeek s).nextAnswer = .reference := nextAnswer_cons (rest := rest) ha
  simp only [readTransferData, readData, disk_get_readSeek, hn, soughtFile, ho, if_true]
  rfl

/-- Settles O31: the answer of the reference store, read off index by index. -/
theorem readAnswerComesFromTheFile : Obligations.ReadAnswerComesFromTheFile := by
  refine ⟨fun s => length_readData_le _ _ _, fun s => readTransferData_closed, fun s rest ho ha => ?_⟩
  rw [readTransferData_reference ho ha]
  exact ⟨by simp, fun k hk => by simp⟩

/-- The length of the selected drive's file after Write's transfer, where nothing lands past its end (R55, R168). -/
theorem len_writeTransfer {s : State}
    (h : writeTransferCount s = 0 ∨
      (s.drv.get s.xdrv).byteOffset + writeTransferCount s ≤ (s.disk.get s.xdrv).len) :
    ((writeTransfer s).disk.get s.xdrv).len = (s.disk.get s.xdrv).len := by
  have hgrown : ((writeTransfer s).disk.get s.xdrv).len = (soughtFile s.xdrv s).grown (writeTransferCount s) := by
    rw [writeTransfer_eq]
    simp only [Quad.get_set_same]
    rfl
  rw [hgrown]
  by_cases h0 : writeTransferCount s = 0
  · rw [h0, grown_zero]
    rfl
  · have ho : (s.disk.get s.xdrv).isOpen = true := by
      by_contra hclosed
      exact h0 (writeTransferCount_closed (Bool.eq_false_iff.mpr hclosed))
    refine grown_inside _ _ ?_
    simpa only [soughtFile, ho, if_true] using h.resolve_left h0

/-- Write's transfer opens and closes no file and keeps every medium (R168). -/
theorem writeTransfer_handle (s : State) (d : Slot) :
    ((writeTransfer s).disk.get d).isOpen = (s.disk.get d).isOpen ∧
      ((writeTransfer s).disk.get d).media = (s.disk.get d).media := by
  rw [writeTransfer_eq]
  exact ⟨Quad.apply_get_set DiskFile.isOpen s.disk _ (by rfl) d, Quad.apply_get_set DiskFile.media s.disk _ (by rfl) d⟩

/-- The error bit is set exactly on a mismatch of the two lengths (R192). -/
theorem errorBit_noteShort (n m : Nat) (st : Byte) :
    errorBit (if n = m then st else setErrorBit st) = (errorBit st || decide (n ≠ m)) := by
  by_cases h : n = m <;> simp [h]

theorem pattern_noteShort (n m : Nat) (st : Byte) :
    pattern (if n = m then st else setErrorBit st) = pattern st := by
  split <;> simp

/-- Settles O33: the equation of the transfer, its bytes by `byteAt_writeTransfer`. -/
theorem writeTransferStoresFifo : Obligations.WriteTransferStoresFifo := by
  refine ⟨fun s rest => writeTransferCount_reference, fun s hx hstuck hfit => ?_⟩
  have hexec : exec .write s = .next (writeTransfer s) := by
    rw [exec_writeTransfer hx hfit, awaitStore_answered _ _ hstuck]
  have hinside : ∀ k, k < writeTransferCount s →
      ((writeTransfer s).disk.get s.xdrv).byteAt s.xdrv ((s.drv.get s.xdrv).byteOffset + k) = s.fifoByte k := by
    intro k hk
    rw [byteAt_writeTransfer, if_pos ⟨Nat.le_add_right _ _, Nat.add_lt_add_left hk _⟩, Nat.add_sub_cancel_left]
  have houtside : ∀ j, j < (s.drv.get s.xdrv).byteOffset ∨
      (s.drv.get s.xdrv).byteOffset + writeTransferCount s ≤ j →
      ((writeTransfer s).disk.get s.xdrv).byteAt s.xdrv j = (s.disk.get s.xdrv).byteAt s.xdrv j := by
    intro j hj
    rw [byteAt_writeTransfer, if_neg (by omega)]
  refine ⟨writeTransfer s, hexec, writeCount_le _ _ _, writeTransferCount_closed, len_writeTransfer, hinside, houtside,
    ?_, fun d => (writeTransfer_handle s d).1, ?_⟩
  all_goals rw [writeTransfer_eq]
  · exact fun d hd => Quad.get_set_other _ _ _ _ hd
  · exact ⟨pattern_noteShort _ _ _, errorBit_noteShort _ _ _, rfl, rfl, rfl, rfl, rfl, rfl, rfl, rfl, rfl, rfl, rfl, rfl,
      sameFifo_of_eq rfl rfl, .refl s⟩

end Sys2Proof.Machine
end

/-! ## Format's fill (R169) -/
section
namespace Sys2Proof.Machine

/-- A run of bytes written behind another is one run. -/
theorem Memory.writeRun_append (xs ys : List Byte) : ∀ (m : Memory) (a : Nat),
    (m.writeRun a xs).writeRun (a + xs.length) ys = m.writeRun a (xs ++ ys) := by
  induction xs with
  | nil => exact fun m a => rfl
  | cons x xs ih =>
    intro m a
    rw [List.length_cons, Nat.add_comm xs.length, ← Nat.add_assoc]
    exact ih (m.write a x) (a + 1)

/-- A file after `n` fill bytes were accepted at its position (R169). -/
def DiskFile.filled (f : DiskFile) (n : Nat) : DiskFile := f.accept (List.replicate n Config.fillByte) n

@[simp] theorem DiskFile.filled_zero (f : DiskFile) : f.filled 0 = f := rfl

@[simp] theorem DiskFile.filled_isOpen (f : DiskFile) (n : Nat) : (f.filled n).isOpen = f.isOpen := rfl

@[simp] theorem DiskFile.filled_roHandle (f : DiskFile) (n : Nat) : (f.filled n).roHandle = f.roHandle := rfl

@[simp] theorem DiskFile.filled_pos (f : DiskFile) (n : Nat) : (f.filled n).pos = f.pos + n := rfl

/-- A longer chunk of which `n` bytes are accepted fills as many (R55). -/
theorem DiskFile.accept_replicate (f : DiskFile) {n m : Nat} (h : n ≤ m) :
    f.accept (List.replicate m Config.fillByte) n = f.filled n := by
  simp [filled, accept, List.take_replicate, Nat.min_eq_left h]

theorem DiskFile.byteAt_filled (f : DiskFile) (d : Slot) (n k : Nat) :
    (f.filled n).byteAt d k = if f.pos ≤ k ∧ k < f.pos + n then Config.fillByte else f.byteAt d k :=
  byteAt_accept_replicate f d _ n n k le_rfl

/-- Two fills in a row are one. -/
theorem DiskFile.filled_filled (f : DiskFile) (n m : Nat) : (f.filled n).filled m = f.filled (n + m) := by
  have hbytes : ((f.filled n).filled m).bytes = (f.filled (n + m)).bytes := by
    have happend := f.bytes.writeRun_append (List.replicate n Config.fillByte) (List.replicate m Config.fillByte) f.pos
    simpa [filled, accept, List.replicate_append_replicate] using happend
  have hlen : ((f.filled n).filled m).len = (f.filled (n + m)).len := by
    simp only [filled, accept, grown]
    split_ifs <;> omega
  have hpos : ((f.filled n).filled m).pos = (f.filled (n + m)).pos := Nat.add_assoc _ _ _
  show DiskFile.mk f.media f.isOpen f.roHandle _ _ _ = DiskFile.mk f.media f.isOpen f.roHandle _ _ _
  exact congr (congr (congrArg _ hpos) hlen) hbytes

/-- `as` are the STORE's answers to writes of the lengths `ns` at the position of `f`, one after the other, on an open handle,
and each accepts its chunk whole (R55). -/
def ChunksAccepted : DiskFile → List Nat → List StoreAnswer → Prop
  | _, [], [] => True
  | _, [], _ :: _ => False
  | _, _ :: _, [] => False
  | f, n :: ns, a :: as =>
    f.isOpen = true ∧ answerAccepts a f.roHandle (f.len - f.pos) n = n ∧ ChunksAccepted (f.filled n) ns as

/-- How many bytes a write on an open handle accepts is its answer's (R55). -/
theorem writeCount_open {d : Slot} {n : Nat} {s : State} {a : StoreAnswer} {rest : List StoreAnswer}
    (ho : (s.disk.get d).isOpen = true) (ha : s.storeAnswers = a :: rest) :
    writeCount d n s = answerAccepts a (s.disk.get d).roHandle ((s.disk.get d).len - (s.disk.get d).pos) n := by
  rw [writeCount, if_pos ho, nextAnswer_cons ha]

theorem writeCount_closed {d : Slot} {s : State} (n : Nat) (h : (s.disk.get d).isOpen = false) : writeCount d n s = 0 := by
  simp [writeCount, h]

/-- All that the write of one fill chunk does (R55, R169). -/
theorem storeWrite_chunk (d : Slot) (n : Nat) (s : State) :
    storeWrite d (List.replicate n Config.fillByte) s = { s with
      disk := s.disk.set d ((s.disk.get d).filled (writeCount d n s))
      storeReqs := s.storeReqs + 1
      storeAnswers := s.storeAnswers.tail } := by
  rw [← DiskFile.accept_replicate _ (writeCount_le d n s)]
  simp [storeWrite, State.issueAnswered, State.setDisk]

/-- Chunks accepted whole fill their total, and the fill goes on behind them (R169). -/
theorem fillTrack_accepted {d : Slot} (ms : List Nat) (rest : List StoreAnswer) (ns : List Nat) :
    ∀ {as : List StoreAnswer} {s : State}, ChunksAccepted (s.disk.get d) ns as → s.storeAnswers = as ++ rest →
    fillTrack d (ns ++ ms) s = fillTrack d ms { s with
      disk := s.disk.set d ((s.disk.get d).filled ns.sum)
      storeReqs := s.storeReqs + as.length
      storeAnswers := rest } := by
  induction ns with
  | nil =>
    intro as s h ha
    match as, h with
    | [], _ =>
      obtain rfl : s.storeAnswers = rest := ha
      simp
  | cons n ns ih =>
    intro as s h ha
    match as, h with
    | a :: as, ⟨ho, hchunk, htail⟩ =>
      have hcount : writeCount d n s = n := (writeCount_open ho ha).trans hchunk
      rw [List.cons_append, fillTrack, if_pos hcount, storeWrite_chunk, hcount,
        ih (as := as) (by simpa using htail) (by rw [ha]; rfl)]
      simp [DiskFile.filled_filled, Nat.add_assoc, Nat.add_comm 1]

/-- The first short chunk ends the fill: what was accepted of it is filled, and the error bit is set (R169, R192). -/
theorem fillTrack_short {d : Slot} {n : Nat} {s : State} (ms : List Nat) (h : writeCount d n s ≠ n) :
    fillTrack d (n :: ms) s = { s with
      disk := s.disk.set d ((s.disk.get d).filled (writeCount d n s))
      status := setErrorBit s.status
      storeReqs := s.storeReqs + 1
      storeAnswers := s.storeAnswers.tail } := by
  rw [fillTrack, if_neg h, storeWrite_chunk]
  rfl

end Sys2Proof.Machine
end

/-! ## Format's fill step, settled (R169) -/
section
namespace Sys2Proof.Machine

/-- The fill step is the chunk writes behind one seek (R169). -/
theorem fillStep_eq_fillTrack (s : State) :
    fillStep s = { fillTrack s.xdrv (fillChunks (s.drv.get s.xdrv).trackLength Config.fillChunk) (writeSeek s) with
      xstep := .s5 } := rfl

/-- All that the seek before a write does (R53). -/
theorem writeSeek_eq (s : State) :
    writeSeek s = { s with disk := s.disk.set s.xdrv (soughtFile s.xdrv s), storeReqs := s.storeReqs + 1 } := rfl

/-- All that Format's step 4 does where every chunk is accepted (R169). -/
theorem fillStep_accepted {s : State} {as rest : List StoreAnswer}
    (h : ChunksAccepted (soughtFile s.xdrv s)
      (fillChunks (s.drv.get s.xdrv).trackLength Config.fillChunk) as)
    (ha : s.storeAnswers = as ++ rest) :
    fillStep s = { s with
      disk := s.disk.set s.xdrv ((soughtFile s.xdrv s).filled (s.drv.get s.xdrv).trackLength)
      storeReqs := s.storeReqs + 1 + as.length
      storeAnswers := rest
      xstep := .s5 } := by
  rw [← disk_get_writeSeek] at h
  have hfill := fillTrack_accepted [] rest _ h ha
  rw [List.append_nil, sum_fillChunks, disk_get_writeSeek] at hfill
  rw [fillStep_eq_fillTrack, hfill, fillTrack, writeSeek_eq]
  simp only [Quad.set_set]

/-- `s` after a fill of `total` bytes that a short chunk, the STORE's `n`-th, has ended: the answers `rest` are left (R169,
R192). -/
def stoppedFill (s : State) (total n : Nat) (rest : List StoreAnswer) : State :=
  { s with
    disk := s.disk.set s.xdrv ((soughtFile s.xdrv s).filled total)
    status := setErrorBit s.status
    storeReqs := s.storeReqs + 1 + n
    storeAnswers := rest
    xstep := .s5 }

/-- All that Format's step 4 does where the chunks `ns` are accepted and the next one, of `m` bytes, is short, `count` bytes
of it accepted (R169, R192). -/
theorem fillStep_short {s : State} {as rest : List StoreAnswer} {ns ms : List Nat} {m count : Nat}
    (hchunks : fillChunks (s.drv.get s.xdrv).trackLength Config.fillChunk = ns ++ m :: ms)
    (h : ChunksAccepted (soughtFile s.xdrv s) ns as) (ha : s.storeAnswers = as ++ rest)
    (hcount : ∀ u : State, u.disk.get s.xdrv = (soughtFile s.xdrv s).filled ns.sum → u.storeAnswers = rest →
      writeCount s.xdrv m u = count)
    (hshort : count ≠ m) :
    fillStep s = stoppedFill s (ns.sum + count) (as.length + 1) rest.tail := by
  rw [← disk_get_writeSeek] at h
  have hfill := fillTrack_accepted (m :: ms) rest ns h ha
  have hwrite := hcount { writeSeek s with
    disk := (writeSeek s).disk.set s.xdrv ((soughtFile s.xdrv s).filled ns.sum)
    storeReqs := (writeSeek s).storeReqs + as.length
    storeAnswers := rest } (Quad.get_set_same _ _ _) rfl
  rw [disk_get_writeSeek] at hfill
  rw [fillStep_eq_fillTrack, hchunks, hfill, fillTrack_short ms (hwrite.trans_ne hshort), hwrite, writeSeek_eq]
  simp only [stoppedFill, Quad.set_set, Quad.get_set_same, DiskFile.filled_filled, Nat.add_assoc]

/-- The bytes of a file filled from its drive's translated offset; on a closed handle nothing is filled (R52). -/
theorem byteAt_filled_soughtFile {d : Slot} {s : State} {n : Nat} (h : (s.disk.get d).isOpen = true ∨ n = 0) (k : Nat) :
    ((soughtFile d s).filled n).byteAt d k =
      if (s.drv.get d).byteOffset ≤ k ∧ k < (s.drv.get d).byteOffset + n then Config.fillByte
      else (s.disk.get d).byteAt d k := by
  rcases h with ho | rfl
  · have hpos : (soughtFile d s).pos = (s.drv.get d).byteOffset := by simp only [soughtFile, ho, if_true]
    rw [DiskFile.byteAt_filled, hpos]
    rfl
  · rw [DiskFile.filled_zero, if_neg (by omega)]
    rfl

/-- What a fill of `n` bytes leaves in the selected drive's file: the fill byte inside the range, the old bytes outside. -/
theorem byteAt_of_filled {s t : State} {n : Nat} (hdisk : t.disk.get s.xdrv = (soughtFile s.xdrv s).filled n)
    (h : (s.disk.get s.xdrv).isOpen = true ∨ n = 0) :
    (∀ k, (s.drv.get s.xdrv).byteOffset ≤ k ∧ k < (s.drv.get s.xdrv).byteOffset + n →
      (t.disk.get s.xdrv).byteAt s.xdrv k = Config.fillByte) ∧
    (∀ k, k < (s.drv.get s.xdrv).byteOffset ∨ (s.drv.get s.xdrv).byteOffset + n ≤ k →
      (t.disk.get s.xdrv).byteAt s.xdrv k = (s.disk.get s.xdrv).byteAt s.xdrv k) := by
  rw [hdisk]
  exact ⟨fun k hk => (byteAt_filled_soughtFile h k).trans (if_pos hk),
    fun k hk => (byteAt_filled_soughtFile h k).trans (if_neg (by omega))⟩

/-- The room left some way behind a fill does not depend on whether the file grew to hold it. -/
theorem DiskFile.filled_room (f : DiskFile) (n j : Nat) :
    (f.filled n).len - ((f.filled n).pos + j) = f.len - (f.pos + (n + j)) := by
  have h : (f.filled n).len - (f.pos + n) = f.len - (f.pos + n) := grown_room f n
  rw [filled_pos]
  omega

/-- Equal chunks are accepted whole where each answer accepts its own, the room counted in the file before the fill. -/
theorem chunksAccepted_replicate {c : Nat} (as : List StoreAnswer) : ∀ {f : DiskFile}, f.isOpen = true →
    (∀ k, (h : k < as.length) → answerAccepts as[k] f.roHandle (f.len - (f.pos + k * c)) c = c) →
    ChunksAccepted f (List.replicate as.length c) as := by
  induction as with
  | nil => exact fun _ _ => trivial
  | cons a as ih =>
    intro f ho h
    have hhead := h 0 (Nat.zero_lt_succ _)
    rw [Nat.zero_mul] at hhead
    refine ⟨ho, hhead, ih ho fun k hk => ?_⟩
    have hroom : f.len - (f.pos + (c + k * c)) = f.len - (f.pos + (k + 1) * c) := by
      rw [Nat.add_comm c, ← Nat.succ_mul]
    rw [DiskFile.filled_room, hroom]
    exact h (k + 1) (Nat.succ_lt_succ hk)

/-- An answer that accepts every chunk of at most `c` bytes of the `total` bytes from the position of `f` on: the reference
store's where they lie inside a writable file (R55), or one of at least `c` bytes. -/
def AcceptsFill (f : DiskFile) (total c : Nat) (a : StoreAnswer) : Prop :=
  (a = .reference ∧ f.roHandle = false ∧ f.pos + total ≤ f.len) ∨
    ∃ ok data accepted, a = .free ok data accepted ∧ c ≤ accepted

theorem AcceptsFill.head {f : DiskFile} {n total c : Nat} {a : StoreAnswer} (h : AcceptsFill f (n + total) c a)
    (hn : n ≤ c) : answerAccepts a f.roHandle (f.len - f.pos) n = n := by
  rcases h with ⟨rfl, hro, hlen⟩ | ⟨ok, data, accepted, rfl, hc⟩
  · rw [hro]
    exact Nat.min_eq_left (by omega)
  · exact Nat.min_eq_right (hn.trans hc)

theorem AcceptsFill.tail {f : DiskFile} {n total c : Nat} {a : StoreAnswer} (h : AcceptsFill f (n + total) c a) :
    AcceptsFill (f.filled n) total c a := by
  refine h.imp_left fun ⟨ha, hro, hlen⟩ => ⟨ha, hro, ?_⟩
  calc f.pos + n + total = f.pos + (n + total) := Nat.add_assoc _ _ _
    _ ≤ f.len := hlen
    _ ≤ (f.filled n).len := le_grown f n

/-- Chunks of at most `c` bytes are accepted whole where every answer accepts such chunks of their total. -/
theorem chunksAccepted_of_acceptsFill {c : Nat} (ns : List Nat) : ∀ {f : DiskFile} {as : List StoreAnswer},
    f.isOpen = true → as.length = ns.length → (∀ n ∈ ns, n ≤ c) → (∀ a ∈ as, AcceptsFill f ns.sum c a) →
    ChunksAccepted f ns as := by
  induction ns with
  | nil =>
    intro f as _ hlen _ _
    rw [List.eq_nil_of_length_eq_zero hlen]
    trivial
  | cons n ns ih =>
    intro f as ho hlen hle h
    match as with
    | a :: as =>
      rw [List.sum_cons] at h
      obtain ⟨hn, hns⟩ := List.forall_mem_cons.mp hle
      obtain ⟨hhead, htail⟩ := List.forall_mem_cons.mp h
      exact ⟨ho, hhead.head hn, ih ho (Nat.succ.inj hlen) hns fun b hb => (htail b hb).tail⟩

/-- Settles O36: the equation of the fill step with every chunk accepted. -/
theorem formatFillsExactlyOneTrack : Obligations.FormatFillsExactlyOneTrack := by
  intro s answers rest hx hstuck ho hlen hanswers ha
  have haccepts : ∀ a ∈ answers,
      AcceptsFill (soughtFile s.xdrv s) (s.drv.get s.xdrv).trackLength Config.fillChunk a := by
    simpa only [AcceptsFill, soughtFile, ho, if_true] using hanswers
  have hchunks : ChunksAccepted (soughtFile s.xdrv s)
      (fillChunks (s.drv.get s.xdrv).trackLength Config.fillChunk) answers :=
    chunksAccepted_of_acceptsFill _ ho hlen (fun n => le_of_mem_fillChunks fillChunk_pos)
      (by rwa [sum_fillChunks])
  have e := fillStep_accepted hchunks ha
  have hdisk : (fillStep s).disk.get s.xdrv = (soughtFile s.xdrv s).filled (s.drv.get s.xdrv).trackLength := by
    rw [e]
    exact Quad.get_set_same _ _ _
  obtain ⟨hinside, houtside⟩ := byteAt_of_filled hdisk (.inl ho)
  refine ⟨fillStep s, exec_fill hx hstuck, hinside, houtside, ?_⟩
  rw [e]
  exact ⟨fun d hd => Quad.get_set_other _ _ _ _ hd, rfl, rfl, ⟨rfl, rfl, rfl, rfl, rfl, rfl⟩, rfl, rfl, rfl, rfl, rfl,
    rfl, sameFifo_of_eq rfl rfl, .refl s⟩

/-- What stands before a listed chunk is whole chunks (R169). -/
theorem fillChunks_eq_of_getElem? {track chunk j m : Nat} (h : (fillChunks track chunk)[j]? = some m) :
    ∃ ms, fillChunks track chunk = List.replicate j chunk ++ m :: ms := by
  obtain ⟨hj, hm⟩ := List.getElem?_eq_some_iff.mp h
  have hle : j ≤ track / chunk := by
    unfold fillChunks at hj
    split at hj <;> simp at hj <;> omega
  have htake : (fillChunks track chunk).take j = List.replicate j chunk := by
    simp [fillChunks, List.take_append_of_le_length, List.take_replicate, hle]
  refine ⟨(fillChunks track chunk).drop (j + 1), ?_⟩
  rw [← htake, ← hm, List.getElem_cons_drop, List.take_append_drop]

/-- No chunk is empty. -/
theorem pos_of_mem_fillChunks {track chunk n : Nat} (hc : 0 < chunk) (hn : n ∈ fillChunks track chunk) : 0 < n := by
  unfold fillChunks at hn
  split at hn <;> simp at hn <;> omega

/-- On a closed handle the first chunk is short, and nothing is filled (R52, R169). -/
theorem fillStep_closed {s : State} {m : Nat} (hclosed : (s.disk.get s.xdrv).isOpen = false)
    (hm : (fillChunks (s.drv.get s.xdrv).trackLength Config.fillChunk)[0]? = some m) :
    fillStep s = stoppedFill s 0 1 s.storeAnswers.tail := by
  obtain ⟨ms, hchunks⟩ := fillChunks_eq_of_getElem? hm
  have hpos : 0 < m := pos_of_mem_fillChunks fillChunk_pos (List.mem_of_getElem? hm)
  refine fillStep_short (as := []) hchunks trivial rfl (fun u hu _ => writeCount_closed m ?_) hpos.ne
  rw [hu]
  exact hclosed

/-- On an open handle where `as` accept whole chunks and `b`, the next answer, accepts less than its chunk of `m` bytes: the
rooms are counted in the file before the fill (R55, R169). -/
theorem fillStep_open_short {s : State} {as rest : List StoreAnswer} {b : StoreAnswer} {m : Nat}
    (ho : (s.disk.get s.xdrv).isOpen = true)
    (hm : (fillChunks (s.drv.get s.xdrv).trackLength Config.fillChunk)[as.length]? = some m)
    (ha : s.storeAnswers = as ++ b :: rest)
    (hwhole : ∀ k, (h : k < as.length) →
      answerAccepts as[k] (s.disk.get s.xdrv).roHandle
        ((s.disk.get s.xdrv).len - ((s.drv.get s.xdrv).byteOffset + k * Config.fillChunk)) Config.fillChunk =
          Config.fillChunk)
    (hshort : answerAccepts b (s.disk.get s.xdrv).roHandle
      ((s.disk.get s.xdrv).len - ((s.drv.get s.xdrv).byteOffset + as.length * Config.fillChunk)) m < m) :
    fillStep s = stoppedFill s (as.length * Config.fillChunk + answerAccepts b (s.disk.get s.xdrv).roHandle
      ((s.disk.get s.xdrv).len - ((s.drv.get s.xdrv).byteOffset + as.length * Config.fillChunk)) m)
        (as.length + 1) rest := by
  obtain ⟨ms, hchunks⟩ := fillChunks_eq_of_getElem? hm
  have hpos : (soughtFile s.xdrv s).pos = (s.drv.get s.xdrv).byteOffset := by simp only [soughtFile, ho, if_true]
  have hsum : (List.replicate as.length Config.fillChunk).sum = as.length * Config.fillChunk := by simp
  have haccepted := chunksAccepted_replicate (c := Config.fillChunk) as (f := soughtFile s.xdrv s) ho
    (by rw [hpos]; exact hwhole)
  rw [← hsum]
  refine fillStep_short hchunks haccepted ha (fun u hu hans => ?_) (by rw [hsum]; exact hshort.ne)
  have huo : (u.disk.get s.xdrv).isOpen = true := by rw [hu]; exact ho
  have hroom := (soughtFile s.xdrv s).filled_room (List.replicate as.length Config.fillChunk).sum 0
  rw [writeCount_open huo hans, hu]
  rw [Nat.add_zero, Nat.add_zero, hpos] at hroom
  rw [hroom]
  rfl

/-- Settles O37: on an open handle or a closed one the step is a stopped fill of `total` bytes. -/
theorem formatStopsAtShortChunk : Obligations.FormatStopsAtShortChunk := by
  intro s answers rest b m total hx hstuck hm hcase
  obtain ⟨e, hopen⟩ : fillStep s = stoppedFill s total (answers.length + 1) rest ∧
      ((s.disk.get s.xdrv).isOpen = true ∨ total = 0) := by
    rcases hcase with ⟨ho, ha, hwhole, hshort, rfl⟩ | ⟨hclosed, rfl, rfl, rfl⟩
    · exact ⟨fillStep_open_short ho hm ha hwhole hshort, .inl ho⟩
    · exact ⟨fillStep_closed hclosed hm, .inr rfl⟩
  have hdisk : (fillStep s).disk.get s.xdrv = (soughtFile s.xdrv s).filled total := by
    rw [e]
    exact Quad.get_set_same _ _ _
  obtain ⟨hinside, houtside⟩ := byteAt_of_filled hdisk hopen
  have hhandle : ((fillStep s).disk.get s.xdrv).isOpen = (s.disk.get s.xdrv).isOpen := by
    rw [hdisk]
    rfl
  refine ⟨fillStep s, exec_fill hx hstuck, ?_, ?_, hinside, houtside, ?_, hhandle, ?_⟩
  all_goals rw [e]
  · exact errorBit_setErrorBit _
  · exact pattern_setErrorBit _
  · exact fun d hd => Quad.get_set_other _ _ _ _ hd
  · exact ⟨rfl, rfl, rfl, rfl, rfl, rfl, rfl, rfl, rfl, rfl, rfl, rfl, rfl, sameFifo_of_eq rfl rfl, .refl s⟩

end Sys2Proof.Machine
end

/-! ## Whole Writes and Reads under the reference answers (R54, R55, R167, R168) -/
section
namespace Sys2Proof.Machine

/-- The command with opcode `op` is at step `x` of its list, with the HOST quiet and the STORE answering (R153). -/
def RunsQuietly (op : Opcode) (x : CmdStep) (s : State) : Prop :=
  s.wait = false ∧ s.hostEvents = [] ∧ s.dstate = .executing ∧ s.xcmd = op ∧ s.xstep = x ∧ s.storeStuck = false

theorem RunsQuietly.atStep {op : Opcode} {x : CmdStep} {s : State} (h : RunsQuietly op x s) : s.xstep = x := by
  obtain ⟨-, -, -, -, hx, -⟩ := h
  exact hx

theorem RunsQuietly.answering {op : Opcode} {x : CmdStep} {s : State} (h : RunsQuietly op x s) :
    s.storeStuck = false := by
  obtain ⟨-, -, -, -, -, hstuck⟩ := h
  exact hstuck

/-- A quiet command's next step is the machine's (R60, R145). -/
theorem RunsQuietly.step_eq {op : Opcode} {x : CmdStep} {s : State} (h : RunsQuietly op x s) :
    step s = exec (decodeCommand op) s := by
  obtain ⟨hw, he, hd, hc, -, -⟩ := h
  rw [step_quiet hw he, dispatcherTurn, hd, hc]

theorem RunsQuietly.validated {op : Opcode} {s : State} (h : RunsQuietly op .s3 s)
    (hvalid : (s.drv.get s.xdrv).valid = true) : RunsQuietly op .s4 (validateStep s) := by
  rw [validateStep_pass hvalid]
  obtain ⟨hw, he, hd, hc, -, hstuck⟩ := h
  exact ⟨hw, he, hd, hc, rfl, hstuck⟩

theorem RunsQuietly.read {op : Opcode} {x : CmdStep} {s : State} (h : RunsQuietly op x s) :
    RunsQuietly op .s5 (readTransfer s) := by
  rw [readTransfer_eq]
  obtain ⟨hw, he, hd, hc, -, hstuck⟩ := h
  exact ⟨hw, he, hd, hc, rfl, hstuck⟩

theorem RunsQuietly.written {op : Opcode} {x : CmdStep} {s : State} (h : RunsQuietly op x s) :
    RunsQuietly op .s5 (writeTransfer s) := by
  rw [writeTransfer_eq]
  obtain ⟨hw, he, hd, hc, -, hstuck⟩ := h
  exact ⟨hw, he, hd, hc, rfl, hstuck⟩

theorem RunsQuietly.reopened {op : Opcode} {x : CmdStep} {s : State} (h : RunsQuietly op x s) :
    RunsQuietly op .s6 (reopenStep s) := by
  have k := (reopenStep_frame s).1
  obtain ⟨hw, he, hd, hc, -, hstuck⟩ := h
  exact ⟨k.wait.trans hw, k.hostEvents.trans he, k.dstate.trans hd, k.xcmd.trans hc, k.xstep, k.storeStuck.trans hstuck⟩

/-- A Read that passes validation is three steps (R167). -/
theorem run_read {s : State} (h : RunsQuietly 0x01 .s3 s) (hvalid : (s.drv.get s.xdrv).valid = true)
    (hfit : (s.drv.get s.xdrv).transferLength ≤ Config.fifoCap) :
    Host.Core.run core 3 s = .next (critical (complete stData) (readTransfer (validateStep s))) := by
  have h4 := h.validated hvalid
  have h5 := h4.read
  have hdrive : ((validateStep s).drv.get (validateStep s).xdrv) = s.drv.get s.xdrv := by
    rw [validateStep_pass hvalid]
  have step3 := h.step_eq.trans (exec_validate (.inl rfl) h.atStep)
  have step4 := h4.step_eq.trans (exec_readTransfer h4.atStep (by rw [hdrive]; exact hfit))
  rw [awaitStore_answered _ _ h4.answering] at step4
  have step5 := h5.step_eq.trans (exec_completeRead h5.atStep)
  exact (run_succ 2 step3).trans ((run_succ 1 step4).trans (run_succ 0 step5))

/-- A Write that passes validation is four steps (R168). -/
theorem run_write {s : State} (h : RunsQuietly 0x02 .s3 s) (hvalid : (s.drv.get s.xdrv).valid = true)
    (hfit : (s.drv.get s.xdrv).transferLength ≤ Config.fifoCap) :
    Host.Core.run core 4 s =
      .next (critical (complete stWdone) (reopenStep (writeTransfer (validateStep s)))) := by
  have h4 := h.validated hvalid
  have h5 := h4.written
  have h6 := h5.reopened
  have hdrive : ((validateStep s).drv.get (validateStep s).xdrv) = s.drv.get s.xdrv := by
    rw [validateStep_pass hvalid]
  have step3 := h.step_eq.trans (exec_validate (.inr rfl) h.atStep)
  have step4 := h4.step_eq.trans (exec_writeTransfer h4.atStep (by rw [hdrive]; exact hfit))
  rw [awaitStore_answered _ _ h4.answering] at step4
  have step5 := h5.step_eq.trans (exec_reopen (.inl rfl) h5.atStep h5.answering)
  have step6 := h6.step_eq.trans (exec_completeWrite h6.atStep)
  exact (run_succ 3 step3).trans ((run_succ 2 step4).trans ((run_succ 1 step5).trans (run_succ 0 step6)))

/-- The selected drive's transfer lies inside its open file (R57, R58). -/
def TransferInside (s : State) : Prop :=
  (s.disk.get s.xdrv).isOpen = true ∧
    (s.drv.get s.xdrv).byteOffset + (s.drv.get s.xdrv).transferLength ≤ (s.disk.get s.xdrv).len

/-- A transfer inside the file is read whole from the reference store (R54). -/
theorem readTransferData_inside {s : State} {rest : List StoreAnswer} (h : TransferInside s)
    (ha : s.storeAnswers = .reference :: rest) :
    readTransferData s = (List.range (s.drv.get s.xdrv).transferLength).map
      fun k => (s.disk.get s.xdrv).byteAt s.xdrv ((s.drv.get s.xdrv).byteOffset + k) := by
  obtain ⟨ho, hlen⟩ := h
  rw [readTransferData_reference ho ha, Nat.min_eq_left (by omega)]

/-- A transfer inside a writable file is accepted whole by the reference store (R55). -/
theorem writeTransferCount_inside {s : State} {rest : List StoreAnswer} (h : TransferInside s)
    (hro : (s.disk.get s.xdrv).roHandle = false) (ha : s.storeAnswers = .reference :: rest) :
    writeTransferCount s = (s.drv.get s.xdrv).transferLength := by
  obtain ⟨ho, hlen⟩ := h
  rw [writeTransferCount_reference ho ha, hro]
  exact Nat.min_eq_left (by omega)

/-- A whole Read of a transfer inside the file, answered by the reference store, puts the file's bytes into the FIFO and ends
with pattern 0x60 and no error (R54, R167). -/
theorem read_reference {s : State} {rest : List StoreAnswer} (h : RunsQuietly 0x01 .s3 s)
    (hvalid : (s.drv.get s.xdrv).valid = true) (hfit : (s.drv.get s.xdrv).transferLength ≤ Config.fifoCap)
    (hinside : TransferInside s) (ha : s.storeAnswers = .reference :: rest) :
    ∃ t, Host.Core.run core 3 s = .next t ∧ t.dstate = .idle ∧ pattern t.status = 0x60 ∧ errorBit t.status = false ∧
      ∀ k, k < (s.drv.get s.xdrv).transferLength →
        t.fifoByte k = (s.disk.get s.xdrv).byteAt s.xdrv ((s.drv.get s.xdrv).byteOffset + k) := by
  refine ⟨_, run_read h hvalid hfit, rfl, pattern_setPattern _ _, ?_, fun k hk => ?_⟩
  all_goals
    rw [validateStep_pass hvalid, readTransfer_eq,
      readTransferData_inside (s := { s with status := clearErrorBit s.status, xstep := .s4 }) hinside ha]
  · simp [critical_complete_eq]
  · refine (fifoByte_congr (s := bulkIn _ s) rfl k).trans ?_
    rw [fifoByte_bulkIn, dif_pos (by simpa using hk)]
    simp

/-- What Write's transfer leaves where the reference store accepts it whole (R55, R168). -/
theorem writeTransfer_reference {s : State} {rest : List StoreAnswer} (hinside : TransferInside s)
    (hro : (s.disk.get s.xdrv).roHandle = false) (ha : s.storeAnswers = .reference :: rest) :
    (writeTransfer s).xdrv = s.xdrv ∧ (writeTransfer s).storeAnswers = rest ∧ (writeTransfer s).status = s.status ∧
      ((writeTransfer s).disk.get s.xdrv).len = (s.disk.get s.xdrv).len ∧
      ∀ k, k < (s.drv.get s.xdrv).transferLength →
        ((writeTransfer s).disk.get s.xdrv).byteAt s.xdrv ((s.drv.get s.xdrv).byteOffset + k) = s.fifoByte k := by
  have hcount := writeTransferCount_inside hinside hro ha
  have hlen := len_writeTransfer (s := s) (.inr (by rw [hcount]; exact hinside.2))
  refine ⟨?_, ?_, ?_, hlen, fun k hk => ?_⟩
  · rw [writeTransfer_eq]
  · rw [writeTransfer_eq, ha]
    rfl
  · rw [writeTransfer_eq, if_pos hcount]
  · rw [byteAt_writeTransfer, hcount, if_pos ⟨Nat.le_add_right _ _, Nat.add_lt_add_left hk _⟩, Nat.add_sub_cancel_left]

/-- A whole Write of a transfer inside the file, answered by the reference store, leaves the FIFO's bytes in the file, which
stays open at its old length, and ends with pattern 0x40 and no error (R55, R152, R168). -/
theorem write_reference {s : State} {rest : List StoreAnswer} (h : RunsQuietly 0x02 .s3 s)
    (hvalid : (s.drv.get s.xdrv).valid = true) (hfit : (s.drv.get s.xdrv).transferLength ≤ Config.fifoCap)
    (hinside : TransferInside s) (hro : (s.disk.get s.xdrv).roHandle = false)
    (hmedia : (s.disk.get s.xdrv).media = true) (ha : s.storeAnswers = .reference :: .reference :: rest) :
    ∃ t, Host.Core.run core 4 s = .next t ∧ t.dstate = .idle ∧ pattern t.status = 0x40 ∧ errorBit t.status = false ∧
      (t.disk.get s.xdrv).isOpen = true ∧ (t.disk.get s.xdrv).len = (s.disk.get s.xdrv).len ∧
      ∀ k, k < (s.drv.get s.xdrv).transferLength →
        (t.disk.get s.xdrv).byteAt s.xdrv ((s.drv.get s.xdrv).byteOffset + k) = s.fifoByte k := by
  have hfinal := run_write h hvalid hfit
  rw [validateStep_pass hvalid] at hfinal
  obtain ⟨hdrv, hanswers, hstatus, hlen, hbytes⟩ :=
    writeTransfer_reference (s := { s with status := clearErrorBit s.status, xstep := .s4 }) hinside hro ha
  have hmedia' := (writeTransfer_handle { s with status := clearErrorBit s.status, xstep := .s4 } s.xdrv).2.trans hmedia
  generalize writeTransfer { s with status := clearErrorBit s.status, xstep := .s4 } = w at *
  have hreopen := reopenStep_success (s := w) (fails := []) hanswers (by decide) (by simp) (by rw [hdrv]; exact hmedia')
  rw [hdrv] at hreopen
  refine ⟨_, hfinal, rfl, pattern_setPattern _ _, ?_⟩
  rw [hreopen, critical_complete_eq]
  simp only [Quad.get_set_same]
  refine ⟨?_, trivial, hlen, hbytes⟩
  rw [hstatus, errorBit_setPattern, errorBit_clearErrorBit]

/-- Settles O46: the bytes a whole Write leaves in the file are those a whole Read puts into the FIFO. -/
theorem writeThenReadRoundTrips : Obligations.WriteThenReadRoundTrips := by
  intro s u rest rest' hw he hd hc hx hstuck hvalid hsize ho hro hlen hmedia ha hw' he' hd' hc' hx' hstuck' hdrv ha'
    hdrive
  have hfit := transferLength_le_fifoCap _ hsize
  obtain ⟨t, hrun, hidle, hpattern, herror, hopen, hlength, hbytes⟩ :=
    write_reference ⟨hw, he, hd, hc, hx, hstuck⟩ hvalid hfit ⟨ho, hlen⟩ hro hmedia ha
  refine ⟨t, hrun, hidle, hpattern, herror, fun hfile => ?_⟩
  have hvalid' : (u.drv.get u.xdrv).valid = true := by rw [hdrive]; exact hvalid
  have hoffset : (u.drv.get u.xdrv).byteOffset = (s.drv.get s.xdrv).byteOffset := by rw [hdrive]; rfl
  have htransfer : (u.drv.get u.xdrv).transferLength = (s.drv.get s.xdrv).transferLength := by rw [hdrive]; rfl
  have hinside : TransferInside u := by
    rw [TransferInside, hfile, hoffset, htransfer, hlength]
    exact ⟨hopen, hlen⟩
  obtain ⟨v, hrun', hidle', hpattern', herror', hfifo⟩ :=
    read_reference ⟨hw', he', hd', hc', hx', hstuck'⟩ hvalid' (htransfer.trans_le hfit) hinside ha'
  refine ⟨v, hrun', hidle', hpattern', herror', fun k hk => ?_⟩
  calc v.fifoByte k = (u.disk.get u.xdrv).byteAt u.xdrv ((u.drv.get u.xdrv).byteOffset + k) :=
        hfifo k (hk.trans_eq htransfer.symm)
    _ = (t.disk.get s.xdrv).byteAt s.xdrv ((s.drv.get s.xdrv).byteOffset + k) := by rw [hfile, hoffset, hdrv]
    _ = s.fifoByte k := hbytes k hk

end Sys2Proof.Machine
end

/-! # Family 30_encoding: decoder and encoder, the fetched word, the command burst, no step stops -/

/-! ## The decoder, row by row (R72, R83, R84, R96) -/
section
namespace Sys2Proof

theorem decodeWrite_reserved {off : Byte} (h : reservedOffset off = true) (data : Byte) :
    decodeWrite off data = .wrx off data := by
  obtain ⟨-, h0, h1, h2, h3, h4, h8⟩ := reservedOffset_ne off h
  exact (if_neg h0).trans <| (if_neg h1).trans <| (if_neg h2).trans <| (if_neg h3).trans <| (if_neg h4).trans (if_neg h8)

theorem decodeRead_reserved {off : Byte} (h : reservedOffset off = true) : decodeRead off = .rdx off := by
  obtain ⟨-, h0, h1, h2, h3, h4, h8⟩ := reservedOffset_ne off h
  exact (if_neg h0).trans <| (if_neg h1).trans <| (if_neg h2).trans <| (if_neg h3).trans <| (if_neg h4).trans (if_neg h8)

/-- What holds of the seven rows of the write decoder holds of every selected write (R84). -/
theorem decodeWrite_rows {p : Byte → Instr → Prop} {data : Byte} (h0 : p 0 (decodeTrigger data))
    (h1 : p 1 (.wr1 data)) (h2 : p 2 (.wr2 data)) (h3 : p 3 (.wr3 data)) (h4 : p 4 (.wr4 data)) (h8 : p 8 (.wr8 data))
    (hx : ∀ off, reservedOffset off = true → p off (.wrx off data)) {off : Byte} (h : selectedOffset off = true) :
    p off (decodeWrite off data) := by
  rcases selectedOffset_cases off h with rfl | rfl | rfl | rfl | rfl | rfl | hr
  case inr.inr.inr.inr.inr.inr =>
    rw [decodeWrite_reserved hr]
    exact hx off hr
  exacts [h0, h1, h2, h3, h4, h8]

/-- What holds of the seven rows of the read decoder holds of every selected read (R84). -/
theorem decodeRead_rows {p : Byte → Instr → Prop} (h0 : p 0 .rd0) (h1 : p 1 .rd1) (h2 : p 2 .rd2) (h3 : p 3 .rd3)
    (h4 : p 4 .rd4) (h8 : p 8 .rd8) (hx : ∀ off, reservedOffset off = true → p off (.rdx off)) {off : Byte}
    (h : selectedOffset off = true) : p off (decodeRead off) := by
  rcases selectedOffset_cases off h with rfl | rfl | rfl | rfl | rfl | rfl | hr
  case inr.inr.inr.inr.inr.inr =>
    rw [decodeRead_reserved hr]
    exact hx off hr
  exacts [h0, h1, h2, h3, h4, h8]

/-- The opcodes with a row of their own (R83). -/
theorem namedOpcode_iff (op : Opcode) : namedOpcode op = true ↔
    op = opReset ∨ op = opRead ∨ op = opWrite ∨ op = opFormat ∨ op = opFifo ∨ op = opParams := by
  unfold namedOpcode
  simp only [Bool.or_eq_true, decide_eq_true_eq, or_assoc]
  rfl

theorem decodeCommand_unknown {op : Opcode} (h : namedOpcode op = false) : decodeCommand op = .unknown op := by
  rw [← Bool.not_eq_true, namedOpcode_iff] at h
  push Not at h
  obtain ⟨n0, n1, n2, n8, nB, n10⟩ := h
  exact (if_neg n0).trans <| (if_neg n1).trans <| (if_neg n2).trans <| (if_neg n8).trans <| (if_neg nB).trans (if_neg n10)

/-- What holds of the six named opcodes and of UNKNOWN holds of every opcode (R83). -/
theorem decodeCommand_rows {p : Opcode → Instr → Prop} (hreset : p opReset .reset) (hread : p opRead .read)
    (hwrite : p opWrite .write) (hformat : p opFormat .format) (hfifo : p opFifo .fifo) (hparams : p opParams .params)
    (hunknown : ∀ op, namedOpcode op = false → p op (.unknown op)) (op : Opcode) : p op (decodeCommand op) := by
  cases h : namedOpcode op with
  | false => exact decodeCommand_unknown h ▸ hunknown op h
  | true =>
    rcases (namedOpcode_iff op).mp h with rfl | rfl | rfl | rfl | rfl | rfl
    exacts [hreset, hread, hwrite, hformat, hfifo, hparams]

/-- A word of a selected offset decodes by its direction (R84, R96). -/
theorem decodeBus_selected {w : TransWord} (h : selectedOffset (wordOffset w) = true) :
    decodeBus w =
      .ok (if wordIsWrite w then decodeWrite (wordOffset w) (wordData w) else decodeRead (wordOffset w)) :=
  if_pos h

/-- A word of any other offset is refused by name (R96). -/
theorem decodeBus_unselected {w : TransWord} (h : ¬ selectedOffset (wordOffset w) = true) :
    decodeBus w = .error .notSelected :=
  if_neg h

/-- Only the words of selected offsets decode (R96). -/
theorem selectedOffset_of_decodeBus {w : TransWord} {i : Instr} (h : decodeBus w = .ok i) :
    selectedOffset (wordOffset w) = true := by
  by_contra hn
  rw [decodeBus_unselected hn] at h
  cases h

theorem decodeBus_transWord {off : Byte} (h : selectedOffset off = true) (isWrite : Bool) (data : Byte) :
    decodeBus (transWord isWrite off data) = .ok (if isWrite then decodeWrite off data else decodeRead off) := by
  rw [decodeBus_selected (by rwa [wordOffset_transWord]), wordIsWrite_transWord, wordOffset_transWord,
    wordData_transWord]

end Sys2Proof
end

/-! ## The encoder after the decoder: no field is lost (R71, R83, R84) -/
section
namespace Sys2Proof

theorem encode_decodeTrigger (data : Byte) : encode (decodeTrigger data) = .bus (transWord true 0 data) := by
  rw [← triggerByte_low7 data, decodeTrigger_triggerByte]
  cases data.getLsbD 7 <;> rfl

theorem encode_decodeWrite {off : Byte} (h : selectedOffset off = true) (data : Byte) :
    encode (decodeWrite off data) = .bus (transWord true off data) :=
  decodeWrite_rows (p := fun o i => encode i = .bus (transWord true o data)) (encode_decodeTrigger data)
    rfl rfl rfl rfl rfl (fun _ _ => rfl) h

/-- A read's word carries no data (R71). -/
theorem encode_decodeRead {off : Byte} (h : selectedOffset off = true) :
    encode (decodeRead off) = .bus (transWord false off 0) :=
  decodeRead_rows (p := fun o i => encode i = .bus (transWord false o 0)) rfl rfl rfl rfl rfl rfl (fun _ _ => rfl) h

theorem encode_decodeCommand (op : Opcode) : encode (decodeCommand op) = .cmd op :=
  decodeCommand_rows (p := fun o i => encode i = .cmd o) rfl rfl rfl rfl rfl rfl (fun _ _ => rfl) op

/-- The word of a decoded instruction is the word decoded, but for a read's data field (R71). -/
theorem encode_of_decodeBus {w : TransWord} {i : Instr} (h : decodeBus w = .ok i) :
    encode i = .bus (transWord (wordIsWrite w) (wordOffset w) (if wordIsWrite w then wordData w else 0)) := by
  have hsel := selectedOffset_of_decodeBus h
  rw [decodeBus_selected hsel] at h
  cases h
  cases hdir : wordIsWrite w with
  | true => exact encode_decodeWrite hsel _
  | false => exact encode_decodeRead hsel

/-- Settles O2: each row's word holds the fields it was decoded from. -/
theorem encodeDecodeEveryWord : Obligations.EncodeDecodeEveryWord := by
  refine ⟨fun w i h => encode_of_decodeBus h, transWord_fields, fun w hw => decodeBus_unselected ?_,
    encode_decodeCommand⟩
  rw [selectedOffset_iff]
  exact Nat.not_lt.mpr hw

end Sys2Proof
end

/-! ## The decoder after the encoder: no operand is lost (R71, R76, R83, R84) -/
section
namespace Sys2Proof

/-- A well-formed bus transaction is what its transaction word decodes to (R84). -/
theorem decodeBus_encode {i : Instr} (hbus : i.isBus = true) (hwf : i.wellFormed = true) :
    ∃ w, encode i = .bus w ∧ decodeBus w = .ok i := by
  cases i <;> try cases hbus
  case rd0 | rd1 | rd2 | rd3 | rd4 | rd8 => exact ⟨_, rfl, decodeBus_transWord (by decide) false 0⟩
  case wr1 data | wr2 data | wr3 data | wr4 data | wr8 data =>
    exact ⟨_, rfl, decodeBus_transWord (by decide) true data⟩
  case wr0cmd op =>
    refine ⟨_, rfl, (decodeBus_transWord (by decide) true _).trans ?_⟩
    exact congrArg Except.ok (decodeTrigger_triggerByte true op)
  case wr0par sector =>
    refine ⟨_, rfl, (decodeBus_transWord (by decide) true _).trans ?_⟩
    exact congrArg Except.ok (decodeTrigger_triggerByte false sector)
  case rdx off =>
    refine ⟨_, rfl, (decodeBus_transWord (reservedOffset_ne off hwf).1 false 0).trans ?_⟩
    exact congrArg Except.ok (decodeRead_reserved hwf)
  case wrx off data =>
    refine ⟨_, rfl, (decodeBus_transWord (reservedOffset_ne off hwf).1 true data).trans ?_⟩
    exact congrArg Except.ok (decodeWrite_reserved hwf data)

/-- UNKNOWN takes only what no named row takes (R85). -/
theorem wellFormed_unknown (op : Opcode) : (Instr.unknown op).wellFormed = true ↔ namedOpcode op = false := by
  show (!namedOpcode op) = true ↔ _
  rw [Bool.not_eq_true']

/-- A well-formed disk command is what its opcode decodes to (R83). -/
theorem decodeCommand_encode {i : Instr} (hcmd : i.isBus = false) (hwf : i.wellFormed = true) :
    ∃ op, encode i = .cmd op ∧ decodeCommand op = i := by
  cases i <;> try cases hcmd
  case reset | read | write | format | fifo | params => exact ⟨_, rfl, rfl⟩
  case unknown op => exact ⟨op, rfl, decodeCommand_unknown ((wellFormed_unknown op).mp hwf)⟩

/-- Settles O1: by format, the bytes of a word or of an opcode decode as the word or the opcode itself. -/
theorem decodeEncodeEveryInstruction : Obligations.DecodeEncodeEveryInstruction := by
  intro i hwf
  cases hbus : i.isBus with
  | true =>
    obtain ⟨w, hencode, hdecode⟩ := decodeBus_encode hbus hwf
    rw [hencode, decode_bytes_bus, hdecode]
  | false =>
    obtain ⟨op, hencode, hdecode⟩ := decodeCommand_encode hbus hwf
    rw [hencode, decode_bytes_cmd, hdecode]

end Sys2Proof
end

/-! ## The opcode table's rows (R83, R85) -/
section
namespace Sys2Proof

theorem wellFormed_decodeTrigger (data : Byte) : (decodeTrigger data).wellFormed = true := by
  rw [← triggerByte_low7 data, decodeTrigger_triggerByte]
  cases data.getLsbD 7 <;> rfl

theorem wellFormed_decodeWrite {off : Byte} (h : selectedOffset off = true) (data : Byte) :
    (decodeWrite off data).wellFormed = true :=
  decodeWrite_rows (p := fun _ i => i.wellFormed = true) (wellFormed_decodeTrigger data)
    rfl rfl rfl rfl rfl (fun _ hr => hr) h

theorem wellFormed_decodeRead {off : Byte} (h : selectedOffset off = true) : (decodeRead off).wellFormed = true :=
  decodeRead_rows (p := fun _ i => i.wellFormed = true) rfl rfl rfl rfl rfl rfl (fun _ hr => hr) h

theorem wellFormed_decodeCommand (op : Opcode) : (decodeCommand op).wellFormed = true :=
  decodeCommand_rows (p := fun _ i => i.wellFormed = true) rfl rfl rfl rfl rfl rfl
    (fun o ho => (wellFormed_unknown o).mpr ho) op

/-- Every instruction's word fits its row, by the lemma of its constructor (R85). -/
theorem tableRow_fits (i : Instr) : Laws.TableRow.Statement i := by
  cases i
  case rd0 => exact Laws.TableRow.rd0
  case wr0cmd op => exact Laws.TableRow.wr0cmd op
  case wr0par sector => exact Laws.TableRow.wr0par sector
  case wr1 data => exact Laws.TableRow.wr1 data
  case wr2 data => exact Laws.TableRow.wr2 data
  case wr3 data => exact Laws.TableRow.wr3 data
  case wr4 data => exact Laws.TableRow.wr4 data
  case rd1 => exact Laws.TableRow.rd1
  case rd2 => exact Laws.TableRow.rd2
  case rd3 => exact Laws.TableRow.rd3
  case rd4 => exact Laws.TableRow.rd4
  case rd8 => exact Laws.TableRow.rd8
  case wr8 data => exact Laws.TableRow.wr8 data
  case rdx off => exact Laws.TableRow.rdx off
  case wrx off data => exact Laws.TableRow.wrx off data
  case reset => exact Laws.TableRow.reset
  case read => exact Laws.TableRow.read
  case write => exact Laws.TableRow.write
  case format => exact Laws.TableRow.format
  case fifo => exact Laws.TableRow.fifo
  case params => exact Laws.TableRow.params
  case unknown op => exact Laws.TableRow.unknown op

/-- No read's row looks at the data field (R71). -/
theorem tableRow_mask_decodeRead {off : Byte} (h : selectedOffset off = true) :
    256 ∣ (tableRow (decodeRead off)).1 :=
  decodeRead_rows (p := fun _ i => 256 ∣ (tableRow i).1) (by decide) (by decide) (by decide) (by decide) (by decide)
    (by decide) (fun _ _ => by show 256 ∣ 0x1F000; decide) h

/-- A mask that leaves out the data field does not see it (R71). -/
theorem transWord_and_mask (isWrite : Bool) (off data data' : Byte) {mask : Nat} (h : 256 ∣ mask) :
    (transWord isWrite off data).toNat &&& mask = (transWord isWrite off data').toNat &&& mask := by
  obtain ⟨k, rfl⟩ := h
  apply Nat.eq_of_testBit_eq
  intro j
  rw [Nat.testBit_and, Nat.testBit_and, show 256 * k = 2 ^ 8 * k from rfl, Nat.testBit_two_pow_mul]
  by_cases hj : 8 ≤ j
  · simp only [BitVec.testBit_toNat, transWord, BitVec.getLsbD_append, if_neg (Nat.not_lt.mpr hj)]
  · simp [hj]

/-- A selected word fits the row of the instruction it decodes to (R85). -/
theorem tableRow_fits_decodeBus {w : TransWord} (h : selectedOffset (wordOffset w) = true) :
    ∃ i, decodeBus w = .ok i ∧ i.isBus = true ∧ i.wellFormed = true ∧ w.toNat &&& (tableRow i).1 = (tableRow i).2 := by
  have hw := transWord_fields w
  have hdecode := decodeBus_selected h
  refine ⟨_, hdecode, Machine.isBus_of_decodeBus hdecode, ?_⟩
  generalize wordIsWrite w = dir, wordOffset w = off, wordData w = data at *
  subst hw
  cases dir with
  | true =>
    have hfit := tableRow_fits _ (wellFormed_decodeWrite h data)
    rw [encode_decodeWrite h] at hfit
    exact ⟨wellFormed_decodeWrite h data, hfit⟩
  | false =>
    have hfit := tableRow_fits _ (wellFormed_decodeRead h)
    rw [encode_decodeRead h] at hfit
    exact ⟨wellFormed_decodeRead h, (transWord_and_mask false off data 0 (tableRow_mask_decodeRead h)).trans hfit⟩

/-- An opcode fits the row of the command it decodes to (R83, R85). -/
theorem tableRow_fits_decodeCommand (op : Opcode) :
    op.toNat &&& (tableRow (decodeCommand op)).1 = (tableRow (decodeCommand op)).2 := by
  have hfit := tableRow_fits _ (wellFormed_decodeCommand op)
  rwa [encode_decodeCommand] at hfit

/-- Settles O3: an instruction's word fits its row, and what it decodes to is well-formed. -/
theorem everyWordFitsItsTableRow : Obligations.EveryWordFitsItsTableRow :=
  ⟨fun w hw => tableRow_fits_decodeBus ((selectedOffset_iff (wordOffset w)).mpr hw),
    fun op => ⟨Machine.decodeCommand_isBus op, wellFormed_decodeCommand op, tableRow_fits_decodeCommand op⟩⟩

/-- Settles O4: the rows of the command decoder. -/
theorem opcodeMapSixNamedRestUnknown : Obligations.OpcodeMapSixNamedRestUnknown :=
  ⟨rfl, rfl, rfl, rfl, rfl, rfl, fun _ h => decodeCommand_unknown h, rfl⟩

/-- Settles O5: the decoder evaluated on the spec's eight words. -/
theorem specVectorWordsDecode : Obligations.SpecVectorWordsDecode := by
  unfold Obligations.SpecVectorWordsDecode
  decide

end Sys2Proof
end

/-! ## The word the service step decodes (R70, R71, R98) -/
section
namespace Sys2Proof.Machine

theorem fetchWord_eq (s : State) : s.fetchWord = transWord (decide (s.capDir = .write)) s.capOff s.capData := by
  unfold State.fetchWord
  cases s.capDir <;> rfl

@[simp] theorem wordOffset_fetchWord (s : State) : wordOffset s.fetchWord = s.capOff := by
  rw [fetchWord_eq, wordOffset_transWord]

/-- Settles O6: the fields of an assembled word. -/
theorem fetchWordIsTheCaptureLatches : Obligations.FetchWordIsTheCaptureLatches := by
  intro s
  refine ⟨?_, wordOffset_fetchWord s, ?_⟩
  · rw [fetchWord_eq, wordIsWrite_transWord]
  · rw [fetchWord_eq, wordData_transWord]

/-- A placed word is the word the next service decodes (log 20). -/
theorem fetchWord_placeTransaction (w : TransWord) (s : State) : (placeTransaction w s).fetchWord = w := by
  have hdir : decide ((placeTransaction w s).capDir = .write) = wordIsWrite w := by
    show decide ((if wordIsWrite w then BusDir.write else .read) = .write) = wordIsWrite w
    cases wordIsWrite w <;> rfl
  rw [fetchWord_eq, hdir]
  exact transWord_fields w

/-- The handler runs the transaction that was captured (R98). -/
theorem serviceTurn_decoded {s : State} {i : Instr} (h : decodeBus s.fetchWord = .ok i) : serviceTurn s = exec i s := by
  simp only [serviceTurn, h]

/-- Settles O9: the placed word is fetched, decodes to the instruction, and nothing comes before its service. -/
theorem placedTransactionRunsNext : Obligations.PlacedTransactionRunsNext := by
  intro s i hbus hwf
  obtain ⟨w, hencode, hdecode⟩ := decodeBus_encode hbus hwf
  have hplaced : s.withFetchWord 24 (encode i).toNat = placeTransaction w s := by
    rw [hencode]
    show placeTransaction (BitVec.ofNat 17 w.toNat) s = _
    rw [BitVec.ofNat_toNat, BitVec.setWidth_eq]
  rw [hplaced, step_service rfl rfl]
  apply serviceTurn_decoded
  rw [fetchWord_placeTransaction, hdecode]

end Sys2Proof.Machine
end

/-! ## The command burst; operand assembly (R79 to R81, R113, R114) -/
section
namespace Sys2Proof.Machine

/-- The burst selects the drive its drive-select byte names, unless the opcode is Read parameters (R81, R114). -/
theorem commandBurst_sel (s : State) :
    (commandBurst s).sel = if low7 s.hold.s0 = opParams then s.sel else driveDecode s.hold.s1 := rfl

/-- Settles O20: the trigger byte is stored first, so the burst commits it with the three older holding registers. -/
theorem commandBurstCommitsHolding : Obligations.CommandBurstCommitsHolding := by
  intro s op
  have hopcode : low7 (holdWrite 0 (triggerByte true op) s).hold.s0 = op := low7_triggerByte true op
  have hsel := commandBurst_sel (holdWrite 0 (triggerByte true op) s)
  rw [hopcode] at hsel
  refine ⟨_, rfl, triggerByte_bit7 true op, hopcode, fun k hk => Quad.get_set_other _ _ _ _ hk, rfl, rfl, rfl, rfl,
    rfl, rfl, rfl, rfl, fun h => hsel.trans (if_pos h), fun h => ?_, pattern_setPattern _ _, errorBit_setPattern _ _,
    rfl, rfl, rfl, ⟨rfl, rfl⟩, ⟨rfl, rfl⟩, ⟨rfl, fun _ => rfl⟩, ⟨rfl, rfl, rfl, rfl⟩, ⟨rfl, rfl, rfl, rfl⟩, rfl,
    ⟨rfl, rfl, rfl, rfl⟩, rfl⟩
  exact (congrArg BitVec.toNat (hsel.trans (if_neg h))).trans (toNat_driveDecode _)

/-- Settles O41: the cylinder's two bytes side by side, and the count's one exception. -/
theorem cylinderAndCountAssembly : Obligations.CylinderAndCountAssembly :=
  ⟨toNat_cylinderOf, rfl, fun _ hc => if_neg hc⟩

end Sys2Proof.Machine
end

/-! ## No step of a legal state stops (R86) -/
section
namespace Sys2Proof.Machine

/-- A bus transaction is serviced from any state (R98). -/
theorem exec_bus_answers {i : Instr} (hbus : i.isBus = true) (s : State) : ∃ t, exec i s = .next t := by
  cases i <;> try cases hbus
  all_goals exact ⟨_, rfl⟩

theorem execRead_answers {s : State} (hfit : (s.drv.get s.xdrv).transferLength ≤ Config.fifoCap) :
    ∃ t, exec .read s = .next t := by
  cases hx : s.xstep with
  | s3 => exact ⟨_, exec_validate (.inl rfl) hx⟩
  | s4 => exact ⟨_, exec_readTransfer hx hfit⟩
  | s5 | s6 => exact ⟨critical (complete stData) s, by simp only [exec, execRead, hx]⟩

theorem execWrite_answers {s : State} (hfit : (s.drv.get s.xdrv).transferLength ≤ Config.fifoCap) :
    ∃ t, exec .write s = .next t := by
  cases hx : s.xstep with
  | s3 => exact ⟨_, exec_validate (.inr rfl) hx⟩
  | s4 => exact ⟨_, exec_writeTransfer hx hfit⟩
  | s5 => exact ⟨awaitStore false s (reopenStep s), by simp only [exec, execWrite, hx]⟩
  | s6 => exact ⟨_, exec_completeWrite hx⟩

theorem execFormat_answers (s : State) : ∃ t, exec .format s = .next t := by
  simp only [exec, execFormat]
  cases s.xstep <;> exact ⟨_, rfl⟩

theorem execParams_answers (s : State) : ∃ t, exec .params s = .next t := by
  simp only [exec, execParams]
  cases s.xstep <;> exact ⟨_, rfl⟩

/-- A disk command's step stops only where a transfer exceeds the FIFO (R137, R138, log 13). -/
theorem exec_command_answers {i : Instr} {s : State} (hcmd : i.isBus = false)
    (hfit : (s.drv.get s.xdrv).transferLength ≤ Config.fifoCap) : ∃ t, exec i s = .next t := by
  cases i <;> try cases hcmd
  case reset | fifo | unknown => exact ⟨_, rfl⟩
  case read => exact execRead_answers hfit
  case write => exact execWrite_answers hfit
  case format => exact execFormat_answers s
  case params => exact execParams_answers s

theorem dispatcherTurn_answers {s : State} (h : Legal s) : ∃ t, dispatcherTurn s = .next t := by
  cases hd : s.dstate with
  | idle => exact ⟨pollStep s, by simp only [dispatcherTurn, hd]⟩
  | decoding => exact ⟨dispatchStep s, by simp only [dispatcherTurn, hd]⟩
  | executing =>
    have hturn : dispatcherTurn s = exec (decodeCommand s.xcmd) s := by simp only [dispatcherTurn, hd]
    rw [hturn]
    exact exec_command_answers (decodeCommand_isBus _) (h.transferLength_le_fifoCap s.xdrv)

/-- A legal state holds no captured cycle but a selected one (R96, R97, log 14). -/
theorem serviceTurn_answers {s : State} (h : Legal s) (hw : s.wait = true) : ∃ t, serviceTurn s = .next t := by
  have hsel : selectedOffset (wordOffset s.fetchWord) = true := by
    rw [wordOffset_fetchWord]
    exact h.capturedSelected hw
  obtain ⟨i, hdecode, hbus⟩ := decodeBus_ok hsel
  rw [serviceTurn_decoded hdecode]
  exact exec_bus_answers hbus s

/-- A presented cycle takes the boundary (R97, log 10). -/
theorem step_present {s : State} {c : BusCycle} {rest : List HostEvent} (hw : s.wait = false)
    (he : s.hostEvents = .cycle c :: rest) : step s = .next (presentCycle c { s with hostEvents := rest }) := by
  simp [step, nextTurn, takeEvent, hw, he]

theorem step_answers_of_turn {s : State} {es : List HostEvent} (h : Legal s) (hturn : DispatcherHasTurn s es) :
    ∃ t, step s = .next t := by
  rw [step_hasTurn hturn]
  exact dispatcherTurn_answers (legal_hostEvents h es)

/-- Settles O51: by whose step it is; the captured cycle is selected and every transfer fits the FIFO. -/
theorem legalStatesNeverStop : Obligations.LegalStatesNeverStop := by
  intro s h
  cases hw : s.wait with
  | true =>
    cases he : s.excl with
    | true => exact step_answers_of_turn h (.inr (.inr ⟨hw, he, rfl⟩))
    | false =>
      rw [step_service hw he]
      exact serviceTurn_answers h hw
  | false =>
    cases he : s.hostEvents with
    | nil => exact step_answers_of_turn h (.inl ⟨hw, he, rfl⟩)
    | cons e rest =>
      cases e with
      | quiet => exact step_answers_of_turn h (.inr (.inl ⟨hw, he⟩))
      | cycle c => exact ⟨_, step_present hw he⟩

end Sys2Proof.Machine
end

/-! # Family 40_bus_capture: the capture step, the service step, the end of every bus transaction -/

/-! ## Capture: whose cycle, and what it latches (R95 to R97) -/
section
namespace Sys2Proof.Machine

/-- The port window, in the addresses the HOST presents (R96). -/
theorem selectedOffset_atPort_iff (addr data : Byte) (dir : BusDir) :
    selectedOffset (BusCycle.atPort addr dir data).off = true ↔ (addr - Config.basePort).toNat < 16 :=
  decide_eq_true_iff

theorem presentCycle_selected {c : BusCycle} (h : selectedOffset c.off = true) (s : State) :
    presentCycle c s = captureCycle c s := if_pos h

theorem presentCycle_unselected {c : BusCycle} (h : ¬ selectedOffset c.off = true) (s : State) :
    presentCycle c s = s := if_neg h

/-- CAP_ADDR is the address on the bus, whatever BASE_PORT is: the arithmetic of the offset wraps (R96, log 1). -/
theorem capAddr_captureCycle_atPort (addr data : Byte) (dir : BusDir) (s : State) :
    (captureCycle (BusCycle.atPort addr dir data) s).capAddr = addr :=
  add_sub_cancel Config.basePort addr

/-- Settles O10: the presented cycle is selected, so it is captured. -/
theorem captureLatchesCycleAndStalls : Obligations.CaptureLatchesCycleAndStalls := by
  intro s addr data dir rest hwait hevents hwindow
  have hselected := (selectedOffset_atPort_iff addr data dir).mpr hwindow
  refine ⟨captureCycle (BusCycle.atPort addr dir data) { s with hostEvents := rest }, ?_,
    capAddr_captureCycle_atPort addr data dir _, rfl, rfl, rfl, rfl, rfl, rfl, rfl, ⟨rfl, rfl, rfl, rfl, rfl, rfl⟩,
    ⟨rfl, rfl⟩, ⟨rfl, fun _ => rfl⟩, ⟨rfl, rfl, rfl, rfl⟩, rfl, ⟨rfl, rfl, rfl, rfl⟩⟩
  rw [step_present hwait hevents, presentCycle_selected hselected]

/-- Settles O11: the presented cycle is not selected, so presenting it is all that happens. -/
theorem unselectedCycleChangesNothing : Obligations.UnselectedCycleChangesNothing := by
  intro s addr data dir rest hwait hevents houtside
  have hunselected : ¬ selectedOffset (BusCycle.atPort addr dir data).off = true :=
    fun h => absurd ((selectedOffset_atPort_iff addr data dir).mp h) (Nat.not_lt.mpr houtside)
  rw [step_present hwait hevents, presentCycle_unselected hunselected]

end Sys2Proof.Machine
end

/-! ## Service: the captured transaction runs, and releases the bus (R98, R101, R103, R106) -/
section
namespace Sys2Proof.Machine

/-- Settles O7: the service turn comes first and runs what it decodes. -/
theorem stepServicesCapturedTransaction : Obligations.StepServicesCapturedTransaction :=
  fun _ _ hwait hexcl hdecode => (step_service hwait hexcl).trans (serviceTurn_decoded hdecode)

/-- What every operation of the handler leaves alone: the capture latches, the dispatcher's side, the error bit of
STATUS (R31, R103, R106, R175). -/
def HandlerFrame (s t : State) : Prop :=
  SameCapture s t ∧ DispatcherSideSame s t ∧ errorBit t.status = errorBit s.status

theorem HandlerFrame.refl (s : State) : HandlerFrame s s :=
  ⟨⟨rfl, rfl, rfl, rfl⟩, ⟨⟨rfl, rfl, rfl, rfl⟩, rfl, ⟨rfl, rfl, rfl, rfl⟩, rfl⟩, rfl⟩

/-- The data phase of a read turns the drivers and gives the HOST its byte, no more (R98). -/
theorem HandlerFrame.driveRead {s t : State} (h : HandlerFrame s t) (v : Byte) :
    HandlerFrame s (Machine.driveRead v t) := h

/-- The release changes WAIT and DBDIR alone (R101). -/
theorem HandlerFrame.endService {s t : State} (h : HandlerFrame s t) : HandlerFrame s (Machine.endService t) := h

theorem handlerFrame_holdWrite (k : Slot) (b : Byte) (s : State) : HandlerFrame s (holdWrite k b s) := .refl s

theorem handlerFrame_fifoReset (s : State) : HandlerFrame s (fifoReset s) := .refl s

theorem handlerFrame_fifoReadNext (s : State) : HandlerFrame s (fifoReadNext s) := by
  rcases fifoReadNext_cases s with ⟨-, e⟩ | ⟨-, e⟩ <;> rw [e]
  · exact .refl s
  · exact .refl s

theorem handlerFrame_fifoWriteNext (b : Byte) (s : State) : HandlerFrame s (fifoWriteNext b s) := by
  rcases fifoWriteNext_cases b s with ⟨-, e⟩ | ⟨-, e⟩ <;> rw [e]
  · exact .refl s
  · exact .refl s

/-- A burst writes STATUS's pattern and keeps its error bit (R16, R114). -/
theorem handlerFrame_commandBurst (s : State) : HandlerFrame s (commandBurst s) := by
  obtain ⟨hcapture, hside, -⟩ := HandlerFrame.refl s
  exact ⟨hcapture, hside, errorBit_setPattern _ _⟩

theorem handlerFrame_commitParameterBurst (s : State) : HandlerFrame s (commitParameterBurst s) := by
  obtain ⟨hcapture, hside, -⟩ := HandlerFrame.refl s
  exact ⟨hcapture, hside, errorBit_setPattern _ _⟩

theorem handlerFrame_parameterBurst (s : State) : HandlerFrame s (parameterBurst s) := by
  obtain ⟨hcapture, hside, herror⟩ := handlerFrame_commitParameterBurst s
  rcases parameterBurst_cases s with ⟨-, e⟩ | ⟨-, -, e⟩ | ⟨-, -, e⟩ <;> rw [e]
  · exact ⟨hcapture, hside, (errorBit_setPattern _ _).trans herror⟩
  · exact ⟨hcapture, hside, herror⟩
  · exact ⟨hcapture, hside, herror⟩

theorem released_endService (s : State) : Released (endService s) := ⟨rfl, rfl⟩

/-- The service of every bus transaction is one handler operation and then the release of the bus (R98, R101). -/
theorem busStep_ends_in_endService {i : Instr} {s t : State} (hb : i.isBus = true) (h : exec i s = .next t) :
    ∃ u, t = endService u ∧ HandlerFrame s u := by
  rcases busStep_cases hb h with ⟨-, v, rfl⟩ | ⟨-, rfl⟩ | ⟨b, -, rfl⟩ | ⟨k, b, -, rfl⟩ | ⟨b, -, rfl⟩ |
    ⟨off, b, -, rfl⟩ | ⟨op, -, rfl⟩ | ⟨sector, -, rfl⟩
  · exact ⟨driveRead v s, rfl, (HandlerFrame.refl s).driveRead v⟩
  · exact ⟨driveRead (fifoNextByte s) (fifoReadNext s), rfl, (handlerFrame_fifoReadNext s).driveRead _⟩
  · exact ⟨_, rfl, handlerFrame_fifoWriteNext b s⟩
  · exact ⟨_, rfl, handlerFrame_holdWrite k b s⟩
  · exact ⟨_, rfl, handlerFrame_fifoReset s⟩
  · exact ⟨_, rfl, .refl s⟩
  · exact ⟨_, rfl, handlerFrame_commandBurst (holdWrite 0 (triggerByte true op) s)⟩
  · exact ⟨_, rfl, handlerFrame_parameterBurst (holdWrite 0 (triggerByte false sector) s)⟩

/-- Settles O25: no bus transaction is stopped, and each ends with the release. -/
theorem everyTransactionReleasesTheBus : Obligations.EveryTransactionReleasesTheBus := by
  intro i s hbus
  obtain ⟨t, hexec⟩ := exec_bus_answers hbus s
  obtain ⟨u, rfl, hframe⟩ := busStep_ends_in_endService hbus hexec
  obtain ⟨hcapture, hside, herror⟩ := hframe.endService
  exact ⟨_, hexec, released_endService u, hcapture, hside, herror⟩

end Sys2Proof.Machine
end

/-! # Family 41_register_file: reads and writes of the register map, the parameter burst, service beside a stuck step -/

/-! ## Transactions without effect: status, reserved and FIFO-status reads, reserved writes (R111, R117 to R120) -/
section
namespace Sys2Proof.Machine

/-- The release is of the bus alone (R101). -/
theorem onlyBusChanged_endService (s : State) : OnlyBusChanged s (endService s) :=
  ⟨⟨rfl, rfl, rfl, rfl, rfl, rfl⟩, ⟨rfl, rfl⟩, rfl, ⟨rfl, fun _ => rfl⟩, ⟨rfl, rfl, rfl, rfl⟩, ⟨rfl, rfl, rfl, rfl⟩,
    rfl, ⟨rfl, rfl, rfl, rfl⟩⟩

/-- What a read with no other effect leaves: the HOST has its byte, the bus is free (R98, R101). -/
theorem finishRead_spec (v : Byte) (s : State) :
    (finishRead v s).reads = s.reads ++ [v] ∧ Released (finishRead v s) ∧ OnlyBusChanged s (finishRead v s) :=
  ⟨finishRead_reads v s, released_endService (driveRead v s), onlyBusChanged_endService s⟩

/-- The reads with no function have one meaning (R117 to R119). -/
theorem exec_reservedRead {i : Instr} {off : Byte} (hi : i = .rd1 ∨ i = .rd2 ∨ i = .rd3 ∨ i = .rd4 ∨ i = .rdx off)
    (s : State) : exec i s = .next (reservedRead s) := by
  rcases hi with rfl | rfl | rfl | rfl | rfl <;> rfl

/-- Settles O15: RD0 is a read with no other effect, and its byte is STATUS. -/
theorem statusReadReturnsStatus : Obligations.StatusReadReturnsStatus := by
  obtain ⟨hword, -⟩ := specVectorWordsDecode
  exact ⟨hword, fun s => ⟨_, rfl, finishRead_spec s.status s⟩⟩

/-- Settles O16: each of the five is the same read, of a free byte. -/
theorem reservedReadsHaveNoSideEffect : Obligations.ReservedReadsHaveNoSideEffect :=
  fun s _ _ hi => ⟨_, exec_reservedRead hi s, finishRead_spec _ s⟩

/-- Settles O19: nothing but the release happens. -/
theorem reservedWritesAreIgnored : Obligations.ReservedWritesAreIgnored :=
  fun s _ _ => ⟨_, rfl, endService_reads s, released_endService s, onlyBusChanged_endService s⟩

end Sys2Proof.Machine
end

/-! ## Holding writes and the cursor reset (R112, R116) -/
section
namespace Sys2Proof.Machine

/-- The three holding writes have one meaning (R112). -/
theorem exec_holdingWrite {i : Instr} {j : Slot} {data : Byte}
    (hi : (i = .wr1 data ∧ j = 1) ∨ (i = .wr2 data ∧ j = 2) ∨ (i = .wr3 data ∧ j = 3)) (s : State) :
    exec i s = .next (endService (holdWrite j data s)) := by
  rcases hi with ⟨rfl, rfl⟩ | ⟨rfl, rfl⟩ | ⟨rfl, rfl⟩ <;> rfl

/-- Settles O17: one holding write, at any of the three slots. -/
theorem holdingWritesStoreTheirByte : Obligations.HoldingWritesStoreTheirByte := by
  refine ⟨fun data => ⟨?_, ?_, ?_⟩, fun s i j data hi => ?_⟩
  · exact decodeBus_transWord (by decide) true data
  · exact decodeBus_transWord (by decide) true data
  · exact decodeBus_transWord (by decide) true data
  · obtain ⟨hcapture, hside, -⟩ := (handlerFrame_holdWrite j data s).endService
    exact ⟨_, exec_holdingWrite hi s, Quad.get_set_same _ _ _, fun k hk => Quad.get_set_other _ _ _ _ hk, rfl,
      released_endService _, rfl, rfl, rfl, rfl, rfl, ⟨rfl, rfl⟩, ⟨rfl, fun _ => rfl⟩, hcapture, hside⟩

/-- Settles O18: the cursor reset writes CUR alone. -/
theorem cursorResetZeroesCursorOnly : Obligations.CursorResetZeroesCursorOnly := by
  refine ⟨fun data => decodeBus_transWord (by decide) true data, fun s data => ?_⟩
  obtain ⟨hcapture, hside, -⟩ := (handlerFrame_fifoReset s).endService
  exact ⟨_, rfl, fifoReset_cur s, fun _ => rfl, rfl, released_endService _, ⟨rfl, rfl, rfl, rfl, rfl, rfl⟩,
    ⟨rfl, rfl⟩, hcapture, hside⟩

end Sys2Proof.Machine
end

/-! ## The parameter burst (R113, R115) -/
section
namespace Sys2Proof.Machine

/-- Whatever PENDING and the committed command are, the burst commits HOLD, leaves PENDING set and writes no other
register than STATUS, RERUN and VIOL (R115). -/
theorem parameterBurst_commits (s : State) :
    (parameterBurst s).hold = s.hold ∧ (parameterBurst s).tf = s.tf.commitParameters s.hold ∧
      (parameterBurst s).sel = s.sel ∧ (parameterBurst s).pending = true ∧
      (parameterBurst s).overrun = s.overrun ∧ (parameterBurst s).reads = s.reads ∧ SameFifo s (parameterBurst s) := by
  rcases parameterBurst_cases s with ⟨-, e⟩ | ⟨hp, -, e⟩ | ⟨hp, -, e⟩ <;> rw [e]
  · exact ⟨rfl, rfl, rfl, rfl, rfl, rfl, rfl, fun _ => rfl⟩
  · exact ⟨rfl, rfl, rfl, hp, rfl, rfl, rfl, fun _ => rfl⟩
  · exact ⟨rfl, rfl, rfl, hp, rfl, rfl, rfl, fun _ => rfl⟩

/-- With nothing pending the burst starts the command (R115). -/
theorem parameterBurst_starts {s : State} (hp : s.pending = false) :
    pattern (parameterBurst s).status = stAccept ∧ (parameterBurst s).rerun = s.rerun ∧
      (parameterBurst s).viol = s.viol := by
  rcases parameterBurst_cases s with ⟨-, e⟩ | ⟨hp', -⟩ | ⟨hp', -⟩
  · rw [e]
    exact ⟨pattern_setPattern _ _, rfl, rfl⟩
  · cases hp.symm.trans hp'
  · cases hp.symm.trans hp'

/-- While a command is pending, a Reset's burst is accepted silently: it is to be re-run (R115, R15). -/
theorem parameterBurst_acceptsReset {s : State} (hp : s.pending = true) (hreset : s.tf.opcode = opReset) :
    pattern (parameterBurst s).status = stPar ∧ (parameterBurst s).rerun = true ∧
      (parameterBurst s).viol = s.viol := by
  rcases parameterBurst_cases s with ⟨hp', -⟩ | ⟨-, -, e⟩ | ⟨-, hother, -⟩
  · cases hp.symm.trans hp'
  · rw [e]
    exact ⟨pattern_setPattern _ _, rfl, rfl⟩
  · exact absurd hreset hother

/-- While a command is pending, any other command's burst is a protocol violation (R115, R18). -/
theorem parameterBurst_violates {s : State} (hp : s.pending = true) (hother : s.tf.opcode ≠ opReset) :
    pattern (parameterBurst s).status = stPar ∧ (parameterBurst s).rerun = s.rerun ∧
      (parameterBurst s).viol = true := by
  rcases parameterBurst_cases s with ⟨hp', -⟩ | ⟨-, hreset, -⟩ | ⟨-, -, e⟩
  · cases hp.symm.trans hp'
  · exact absurd hreset hother
  · rw [e]
    exact ⟨pattern_setPattern _ _, rfl, rfl⟩

/-- Settles O21: the trigger byte is stored first, so the burst commits it with the three older holding registers; its
three ends are the three clauses on PENDING and the command. -/
theorem parameterBurstStartsOrRejects : Obligations.ParameterBurstStartsOrRejects := by
  intro s sector
  obtain ⟨hhold, htf, hsel, hpending, hoverrun, hreads, hfifo⟩ :=
    parameterBurst_commits (holdWrite 0 (triggerByte false sector) s)
  obtain ⟨hcapture, hside, herror⟩ :=
    (handlerFrame_parameterBurst (holdWrite 0 (triggerByte false sector) s)).endService
  refine ⟨endService (parameterBurst (holdWrite 0 (triggerByte false sector) s)), rfl, ?_⟩
  rw [endService_hold, endService_tf, hhold, htf]
  exact ⟨triggerByte_bit7 false sector, low7_triggerByte false sector, fun k hk => Quad.get_set_other _ _ _ _ hk,
    rfl, rfl, rfl, rfl, rfl, rfl, rfl, rfl, hsel, herror, hpending, hoverrun, fun hp => parameterBurst_starts hp,
    fun hp hreset => parameterBurst_acceptsReset hp hreset, fun hp hother => parameterBurst_violates hp hother,
    hreads, released_endService _, hfifo, hcapture, hside⟩

end Sys2Proof.Machine
end

/-! ## A stuck step outside a critical section, and the bus beside it (R154) -/
section
namespace Sys2Proof.Machine

/-- No bus transaction clears PENDING (R14, R115). -/
theorem busStep_keeps_pending {i : Instr} {s t : State} (hb : i.isBus = true) (h : exec i s = .next t)
    (hp : s.pending = true) : t.pending = true := by
  rcases busStep_cases hb h with ⟨-, v, rfl⟩ | ⟨-, rfl⟩ | ⟨b, -, rfl⟩ | ⟨k, b, -, rfl⟩ | ⟨b, -, rfl⟩ |
    ⟨off, b, -, rfl⟩ | ⟨op, -, rfl⟩ | ⟨sector, -, rfl⟩
  · exact hp
  · rcases fifoReadNext_cases s with ⟨-, e⟩ | ⟨-, e⟩ <;> rw [e] <;> exact hp
  · rcases fifoWriteNext_cases b s with ⟨-, e⟩ | ⟨-, e⟩ <;> rw [e] <;> exact hp
  · exact hp
  · exact hp
  · exact hp
  · exact hp
  · obtain ⟨-, -, -, hpending, -⟩ := parameterBurst_commits (holdWrite 0 (triggerByte false sector) s)
    exact hpending

/-- The three steps with a Store request outside a critical section: Format's fill, the reopen of Write and of Format
(R153). -/
def InOpenStoreStep (s : State) : Prop :=
  (s.xcmd = 0x08 ∧ s.xstep = .s4) ∨ (s.xcmd = 0x02 ∧ s.xstep = .s5) ∨ (s.xcmd = 0x08 ∧ s.xstep = .s5)

/-- Outside a critical section a stuck step leaves the state as it was (R154, log 9). -/
theorem awaitStore_stuckOpen {s : State} (t : State) (h : s.storeStuck = true) : awaitStore false s t = s := by
  rcases awaitStore_cases false s t with ⟨-, e⟩ | ⟨h', -⟩
  · rw [e, Bool.or_false]
  · cases h.symm.trans h'

/-- Where the STORE has stopped answering, these steps change nothing and are not left (R154, log 9). -/
theorem exec_stuckOpen {s : State} (hstuck : s.storeStuck = true) (h : InOpenStoreStep s) :
    exec (decodeCommand s.xcmd) s = .next s := by
  have hformat : decodeCommand 0x08 = .format := rfl
  have hwrite : decodeCommand 0x02 = .write := rfl
  rcases h with ⟨hc, hx⟩ | ⟨hc, hx⟩ | ⟨hc, hx⟩
  · simp only [hc, hformat, exec, execFormat, hx, awaitStore_stuckOpen _ hstuck]
  · simp only [hc, hwrite, exec, execWrite, hx, awaitStore_stuckOpen _ hstuck]
  · simp only [hc, hformat, exec, execFormat, hx, awaitStore_stuckOpen _ hstuck]

theorem dispatcherTurn_executing {s : State} (h : s.dstate = .executing) :
    dispatcherTurn s = exec (decodeCommand s.xcmd) s := by
  simp only [dispatcherTurn, h]

/-- The dispatcher's turn at such a step uses up the boundary and does nothing more (R154, log 10). -/
theorem step_stuckOpen {s : State} {es : List HostEvent} (hstuck : s.storeStuck = true) (hexec : s.dstate = .executing)
    (h : InOpenStoreStep s) (hturn : DispatcherHasTurn s es) : step s = .next { s with hostEvents := es } :=
  calc step s = dispatcherTurn { s with hostEvents := es } := step_hasTurn hturn
    _ = exec (decodeCommand s.xcmd) { s with hostEvents := es } := dispatcherTurn_executing hexec
    _ = .next { s with hostEvents := es } := exec_stuckOpen (s := { s with hostEvents := es }) hstuck h

/-- In a legal state a running command is pending (R155). -/
theorem Legal.pending_of_executing {s : State} (h : Legal s) (hexec : s.dstate = .executing) : s.pending = true := by
  by_contra hp
  have hidle := h.idleUnlessPending (Bool.eq_false_iff.mpr hp)
  cases hexec.symm.trans hidle

/-- In a legal state with a captured cycle and EXCL = 0 the step services the transaction the cycle decodes to, and
releases the bus (R98, R101). -/
theorem Legal.step_services {s : State} (h : Legal s) (hwait : s.wait = true) (hexcl : s.excl = false) :
    ∃ (i : Instr) (t : State), decodeBus s.fetchWord = .ok i ∧ i.isBus = true ∧ step s = exec i s ∧
      exec i s = .next t ∧ Released t ∧ DispatcherSideSame s t := by
  have hselected : selectedOffset (wordOffset s.fetchWord) = true := by
    rw [wordOffset_fetchWord]
    exact h.capturedSelected hwait
  obtain ⟨i, hdecode, hbus⟩ := decodeBus_ok hselected
  obtain ⟨t, hexec, hreleased, -, hside, -⟩ := everyTransactionReleasesTheBus i s hbus
  exact ⟨i, t, hdecode, hbus, stepServicesCapturedTransaction s i hwait hexcl hdecode, hexec, hreleased, hside⟩

/-- Settles O60: the dispatcher's turn is the stuck step, which changes nothing; the handler's turn is a service like
any other, in which a parameter burst finds PENDING set. -/
theorem stuckOutsideCriticalSectionServesHost : Obligations.StuckOutsideCriticalSectionServesHost := by
  intro s hlegal hstuck hexecuting hstep
  have hpending : s.pending = true := hlegal.pending_of_executing hexecuting
  refine ⟨hpending, fun es hturn => step_stuckOpen hstuck hexecuting hstep hturn, fun hwait hexcl => ?_⟩
  obtain ⟨i, t, hdecode, hbus, hserves, hexec, hreleased, hside⟩ := hlegal.step_services hwait hexcl
  refine ⟨i, t, hdecode, hserves, hserves.trans hexec, hreleased, hside, busStep_keeps_pending hbus hexec hpending, ?_⟩
  rintro sector rfl hother
  cases hexec
  obtain ⟨-, -, hviol⟩ := parameterBurst_violates (s := holdWrite 0 (triggerByte false sector) s) hpending hother
  exact hviol

end Sys2Proof.Machine
end

/-! # Family 42_fifo: the data port, the bulk moves, Read's transfer into the FIFO -/

/-! ## The data port below capacity and at it (R132 to R136) -/
section
namespace Sys2Proof.Machine

/-- RD8 below capacity is a read of the byte at the cursor, which moves on (R132, R134). -/
theorem exec_rd8_below {s : State} (h : s.cur < Config.fifoCap) :
    exec .rd8 s = .next (finishRead (s.fifoByte s.cur) { s with cur := s.cur + 1 }) := by
  obtain ⟨hbyte, hstate⟩ := fifoReadNext_below h
  simp only [exec, execRd8, hbyte, hstate]

/-- RD8 at capacity is a read of a free byte, which latches OVERRUN (R136, log 3). -/
theorem exec_rd8_full {s : State} (h : ¬ s.cur < Config.fifoCap) :
    exec .rd8 s = .next (finishRead (Config.fifoOverrunByte s.reads.length) { s with overrun := true }) := by
  obtain ⟨hbyte, hstate⟩ := fifoReadNext_full h
  simp only [exec, execRd8, hbyte, hstate]

/-- WR8 below capacity writes the byte at the cursor, which moves on (R133, R135). -/
theorem exec_wr8_below {s : State} (data : Byte) (h : s.cur < Config.fifoCap) :
    exec (.wr8 data) s =
      .next (endService { s with fifo := s.fifo.write s.cur data, cur := s.cur + 1 }) := by
  simp only [exec, execWr8, fifoWriteNext_below data h]

/-- WR8 at capacity discards its byte and latches OVERRUN (R136). -/
theorem exec_wr8_full {s : State} (data : Byte) (h : ¬ s.cur < Config.fifoCap) :
    exec (.wr8 data) s = .next (endService { s with overrun := true }) := by
  simp only [exec, execWr8, fifoWriteNext_full data h]

/-- The FIFO's bytes after one byte is written (R21, R133). -/
theorem fifoByte_of_write {s t : State} {a : Nat} {b : Byte} (h : t.fifo = s.fifo.write a b) (i : Nat) :
    t.fifoByte i = if i = a then b else s.fifoByte i := by
  by_cases hi : i = a
  · simp [State.fifoByte, h, hi]
  · simp [State.fifoByte, h, hi, Memory.read?_write_other]

/-- Settles O22: below capacity RD8 is the read at the cursor, and only the cursor and the HOST's record move. -/
theorem dataReadReturnsByteAtCursor : Obligations.DataReadReturnsByteAtCursor := by
  intro s h
  obtain ⟨hcapture, hside, -⟩ := HandlerFrame.refl s
  exact ⟨_, exec_rd8_below h, finishRead_reads _ _, rfl, fun _ => rfl, released_endService _,
    ⟨rfl, rfl, rfl, rfl, rfl, rfl⟩, ⟨rfl, rfl⟩, hcapture, hside⟩

/-- Settles O23: below capacity WR8 is the write at the cursor; which bytes it leaves is `fifoByte_of_write`. -/
theorem dataWriteStoresByteAtCursor : Obligations.DataWriteStoresByteAtCursor := by
  intro s data h
  obtain ⟨hcapture, hside, -⟩ := HandlerFrame.refl s
  refine ⟨_, exec_wr8_below data h, ?_, fun i hi => ?_, rfl, rfl, released_endService _,
    ⟨rfl, rfl, rfl, rfl, rfl, rfl⟩, ⟨rfl, rfl⟩, hcapture, hside⟩
  · exact (fifoByte_of_write rfl s.cur).trans (if_pos rfl)
  · exact (fifoByte_of_write rfl i).trans (if_neg hi)

/-- Settles O24: with the cursor at capacity neither access is below it, so each only latches OVERRUN. -/
theorem dataPortClampsAtCapacity : Obligations.DataPortClampsAtCapacity := by
  intro s data hcap
  have hfull : ¬ s.cur < Config.fifoCap := hcap.not_lt
  obtain ⟨hcapture, hside, -⟩ := HandlerFrame.refl s
  refine ⟨⟨_, exec_rd8_full hfull, finishRead_reads _ _, ?_⟩, ⟨_, exec_wr8_full data hfull, endService_reads _, ?_⟩⟩
  all_goals exact ⟨rfl, rfl, sameFifo_of_eq rfl rfl, released_endService _, ⟨rfl, rfl, rfl, rfl, rfl, rfl⟩, hcapture,
    hside⟩

end Sys2Proof.Machine
end

/-! ## The bulk moves (R137, R138) -/
section
namespace Sys2Proof.Machine

/-- A FIFO byte that BulkIn wrote (R137). -/
theorem fifoByte_bulkIn_inside {data : List Byte} {k : Nat} (h : k < data.length) (s : State) :
    (bulkIn data s).fifoByte k = data[k] := by
  rw [fifoByte_bulkIn, dif_pos h]

/-- A FIFO byte past what BulkIn wrote (R137). -/
theorem fifoByte_bulkIn_outside {data : List Byte} {k : Nat} (h : data.length ≤ k) (s : State) :
    (bulkIn data s).fifoByte k = s.fifoByte k := by
  rw [fifoByte_bulkIn, dif_neg h.not_gt]

/-- What BulkIn stored BulkOut returns, byte by byte (R137, R138). -/
theorem bulkOut_bulkIn (data : List Byte) (s : State) : bulkOut data.length (bulkIn data s) = data := by
  refine List.ext_getElem (length_bulkOut _ _) fun k hk hk' => ?_
  rw [getElem_bulkOut, fifoByte_bulkIn_inside hk']

/-- Settles O45: the round trip, and BulkIn's frame in the FIFO. -/
theorem bulkOutReturnsBulkIn : Obligations.BulkOutReturnsBulkIn :=
  fun s data => ⟨bulkOut_bulkIn data s, bulkIn_cur data s, fun _ hk => fifoByte_bulkIn_outside hk s⟩

end Sys2Proof.Machine
end

/-! ## Read's transfer (R137, R167, R192) -/
section
namespace Sys2Proof.Machine

/-- Read's transfer leaves the FIFO as a BulkIn of the answered bytes does (R137, R167). -/
theorem fifoByte_readTransfer (s : State) (k : Nat) :
    (readTransfer s).fifoByte k = (bulkIn (readTransferData s) s).fifoByte k :=
  fifoByte_congr (by rw [readTransfer_eq, bulkIn_fifo]) k

/-- What does not depend on a file's position Read's transfer keeps of every file (R54, R167). -/
theorem readTransfer_disk_apply {α : Type} (f : DiskFile → α)
    (hpos : ∀ (file : DiskFile) (p : Nat), f { file with pos := p } = f file) (s : State) (d : Slot) :
    f ((readTransfer s).disk.get d) = f (s.disk.get d) := by
  rw [readTransfer_eq]
  exact Quad.apply_get_set f s.disk _ (hpos (s.disk.get s.xdrv) _) d

/-- Read's transfer keeps the bytes, the length and the medium of every file (R167). -/
theorem readTransfer_sameFile (d : Slot) (s : State) : SameFile d s (readTransfer s) :=
  ⟨byteAt_congr (readTransfer_disk_apply DiskFile.bytes (fun _ _ => rfl) s d) d,
    readTransfer_disk_apply DiskFile.len (fun _ _ => rfl) s d,
    readTransfer_disk_apply DiskFile.media (fun _ _ => rfl) s d⟩

/-- Settles O32: the step answers with the transfer, whose FIFO is BulkIn's, whose files are kept, and whose other fields
are those of `readTransfer_eq`. -/
theorem readTransferFillsFifo : Obligations.ReadTransferFillsFifo := by
  intro s hx hstuck hfit
  have hexec : exec .read s = .next (readTransfer s) := by
    rw [exec_readTransfer hx hfit, awaitStore_answered _ _ hstuck]
  have hstored : ∀ k, (h : k < (readTransferData s).length) → (readTransfer s).fifoByte k = (readTransferData s)[k] :=
    fun k hk => (fifoByte_readTransfer s k).trans (fifoByte_bulkIn_inside hk s)
  have hkept : ∀ k, (readTransferData s).length ≤ k → (readTransfer s).fifoByte k = s.fifoByte k :=
    fun k hk => (fifoByte_readTransfer s k).trans (fifoByte_bulkIn_outside hk s)
  have hfile : ∀ d, SameFile d s (readTransfer s) := fun d => readTransfer_sameFile d s
  have hopen : ∀ d, ((readTransfer s).disk.get d).isOpen = (s.disk.get d).isOpen :=
    readTransfer_disk_apply DiskFile.isOpen (fun _ _ => rfl) s
  refine ⟨readTransfer s, hexec, hstored, hkept, ?_⟩
  rw [readTransfer_eq] at hfile hopen ⊢
  exact ⟨rfl, pattern_noteShort _ _ _, errorBit_noteShort _ _ _, rfl, rfl, rfl, rfl, rfl, rfl, rfl, rfl, rfl, rfl, rfl,
    hfile, hopen, rfl, .refl s⟩

end Sys2Proof.Machine
end

/-! # Family 43_dispatcher: the dispatcher's turn by DSTATE, the completion step, every command's way back to Idle -/

/-! ## The dispatcher's turn (R145 to R148, R153, R156) -/
section
namespace Sys2Proof.Machine

theorem dispatcherTurn_pending {s : State} (hd : s.dstate = .idle) (hp : s.pending = true) :
    dispatcherTurn s = .next (entryStep s) := by
  simp only [dispatcherTurn, hd, pollStep, hp, if_true]

theorem dispatcherTurn_nothingPending {s : State} (hd : s.dstate = .idle) (hp : s.pending = false) :
    dispatcherTurn s = .next s := by
  simp only [dispatcherTurn, hd, pollStep, hp, Bool.false_eq_true, if_false]

theorem dispatcherTurn_decoding {s : State} (hd : s.dstate = .decoding) :
    dispatcherTurn s = .next (dispatchStep s) := by
  simp only [dispatcherTurn, hd]

/-- Where the dispatcher has the turn and a command is executing, the machine's step is the command's (R145, R153). -/
theorem step_executing {s : State} {es : List HostEvent} (hturn : DispatcherHasTurn s es) (hd : s.dstate = .executing) :
    step s = exec (decodeCommand s.xcmd) { s with hostEvents := es } :=
  (step_hasTurn hturn).trans (dispatcherTurn_executing hd)

/-- Where the dispatcher has the turn, is idle and finds nothing pending, the machine's step uses up the boundary and does
nothing more (R156, log 10). -/
theorem step_nothingPending {s : State} {es : List HostEvent} (hturn : DispatcherHasTurn s es) (hd : s.dstate = .idle)
    (hp : s.pending = false) : step s = .next { s with hostEvents := es } :=
  (step_hasTurn hturn).trans (dispatcherTurn_nothingPending hd hp)

/-- Settles O8: the three clauses are the three ways in which the dispatcher has the turn. -/
theorem stepRunsFetchedCommand : Obligations.StepRunsFetchedCommand :=
  ⟨fun _ hw he hd => step_executing (.inl ⟨hw, he, he⟩) hd,
    fun _ _ hw he hd => step_executing (.inr (.inl ⟨hw, he⟩)) hd,
    fun _ hw he hd => step_executing (.inr (.inr ⟨hw, he, rfl⟩)) hd⟩

/-- Settles O14: the three clauses are the three ways in which the dispatcher has the turn. -/
theorem idleDispatcherChangesNothing : Obligations.IdleDispatcherChangesNothing :=
  ⟨fun _ hw he hd hp => step_nothingPending (.inl ⟨hw, he, he⟩) hd hp,
    fun _ _ hw he hd hp => step_nothingPending (.inr (.inl ⟨hw, he⟩)) hd hp,
    fun _ hw he hd hp => step_nothingPending (.inr (.inr ⟨hw, he, rfl⟩)) hd hp⟩

/-- Settles O13: the step is the Dispatch step, whose fields are those of `s` but for DSTATE and the step index. -/
theorem dispatchStepStartsTheCommand : Obligations.DispatchStepStartsTheCommand := by
  intro s es hturn hd
  exact ⟨dispatchStep { s with hostEvents := es }, (step_hasTurn hturn).trans (dispatcherTurn_decoding hd),
    rfl, rfl, rfl, rfl, rfl, rfl, ⟨rfl, rfl, rfl, rfl, rfl, rfl⟩, sameFifo_of_eq rfl rfl, ⟨rfl, rfl, rfl, rfl⟩,
    .refl { s with hostEvents := es }⟩

/-- The Entry step's snapshot of the selected drive (R147). -/
theorem drv_get_entryStep (s : State) (d : Slot) :
    (entryStep s).drv.get d = if d = s.sel then (s.drv.get s.sel).loadWorking s.tf else s.drv.get d :=
  Quad.get_set s.drv s.sel d _

/-- Settles O12: the step is the Entry step; the selected descriptor is its snapshot, the other three are kept. -/
theorem entryStepSnapshotsTaskFile : Obligations.EntryStepSnapshotsTaskFile := by
  intro s es hturn hd hp
  have hselected : (entryStep { s with hostEvents := es }).drv.get s.sel = (s.drv.get s.sel).loadWorking s.tf :=
    (drv_get_entryStep _ _).trans (if_pos rfl)
  have hothers : ∀ d, d ≠ s.sel → (entryStep { s with hostEvents := es }).drv.get d = s.drv.get d :=
    fun d hne => (drv_get_entryStep _ _).trans (if_neg hne)
  refine ⟨entryStep { s with hostEvents := es }, (step_hasTurn hturn).trans (dispatcherTurn_pending hd hp),
    rfl, rfl, rfl, ?_⟩
  rw [hselected]
  exact ⟨toNat_cylinderOf s.tf, rfl, rfl, rfl, rfl, rfl, rfl, hothers, rfl, rfl, ⟨rfl, rfl, rfl, rfl, rfl, rfl⟩,
    sameFifo_of_eq rfl rfl, ⟨rfl, rfl, rfl, rfl⟩, .refl { s with hostEvents := es }⟩

end Sys2Proof.Machine
end

/-! ## The completion step (R150) -/
section
namespace Sys2Proof.Machine

/-- The completion step of each command that has one, and its pattern (R150, R153). -/
def AtCompletion (i : Instr) (x : CmdStep) (p : Byte) : Prop :=
  (i = .read ∧ x = .s5 ∧ p = stData) ∨ (i = .write ∧ x = .s6 ∧ p = stWdone) ∨
    (i = .format ∧ x = .s6 ∧ p = stFdone) ∨ (i = .params ∧ x = .s4 ∧ p = stData)

theorem AtCompletion.exec_eq {i : Instr} {s : State} {p : Byte} (h : AtCompletion i s.xstep p) :
    exec i s = .next (critical (complete p) s) := by
  rcases h with ⟨rfl, hx, rfl⟩ | ⟨rfl, hx, rfl⟩ | ⟨rfl, hx, rfl⟩ | ⟨rfl, hx, rfl⟩
  · exact exec_completeRead hx
  · exact exec_completeWrite hx
  · simp only [exec, execFormat, hx]
  · simp only [exec, execParams, hx]

/-- A completion pattern leaves the error bit's place free (R16). -/
theorem AtCompletion.pattern_eq {i : Instr} {x : CmdStep} {p : Byte} (h : AtCompletion i x p) : pattern p = p := by
  rcases h with ⟨-, -, rfl⟩ | ⟨-, -, rfl⟩ | ⟨-, -, rfl⟩ | ⟨-, -, rfl⟩ <;> rfl

/-- Settles O29: the step is `Complete(p)` in its critical section, read field by field. -/
theorem completionWritesPatternAndFinishes : Obligations.CompletionWritesPatternAndFinishes := by
  intro s i p hstep
  have hcompletion : AtCompletion i s.xstep p := hstep
  refine ⟨_, hcompletion.exec_eq, ?_⟩
  rw [critical_complete_eq]
  exact ⟨(pattern_setPattern p s.status).trans hcompletion.pattern_eq, errorBit_setPattern p s.status,
    ⟨rfl, rfl, rfl⟩, rfl, rfl, rfl, rfl, rfl, rfl, rfl, rfl, sameFifo_of_eq rfl rfl, ⟨rfl, rfl, rfl, rfl⟩, .refl s⟩

end Sys2Proof.Machine
end

/-! ## Every command's way back to Idle (R145, R150, R153, R157) -/
section
namespace Sys2Proof.Machine

/-- The step of command `i` from `s` ended the command: Reset clears PENDING, every other command keeps it for an owed
re-run (R150, R157, R166). -/
def CommandEnds (i : Instr) (s t : State) : Prop :=
  t.dstate = .idle ∧ t.rerun = false ∧ t.pending = if i = .reset then false else s.rerun && s.pending

/-- The step took a command to the next step of its list (R153). -/
def CommandGoesOn (s t : State) : Prop :=
  t.dstate = s.dstate ∧ t.rerun = s.rerun ∧ t.pending = s.pending ∧ t.xstep.number = s.xstep.number + 1

/-- What every step of a disk command keeps of the sequencer and the STORE: which command runs, on which drive, and
whether the STORE answers (R23, R154). -/
def SameCommand (s t : State) : Prop := t.xcmd = s.xcmd ∧ t.xdrv = s.xdrv ∧ t.storeStuck = s.storeStuck

theorem StoreFrame.sameCommand {s t : State} (h : StoreFrame s t) : SameCommand s t := ⟨h.xcmd, h.xdrv, h.storeStuck⟩

theorem validateStep_sameCommand (s : State) : SameCommand s (validateStep s) := by
  rcases validateStep_cases s with ⟨-, e⟩ | e <;> rw [e] <;> exact ⟨rfl, rfl, rfl⟩

theorem CommandStep.sameCommand {i : Instr} {s t : State} (h : CommandStep i s t) : SameCommand s t := by
  cases h with
  | stuck | params | fifo | complete => exact ⟨rfl, rfl, rfl⟩
  | reset =>
    obtain ⟨-, -, -, -, -, -, -, -, -, -, -, -, hxcmd, hxdrv, hstuck, -⟩ := resetStep_frame s
    exact ⟨hxcmd, hxdrv, hstuck⟩
  | validate => exact validateStep_sameCommand s
  | validateFormat => exact validateStep_sameCommand (clearSector s)
  | readTransfer =>
    rw [readTransfer_eq]
    exact ⟨rfl, rfl, rfl⟩
  | writeTransfer =>
    rw [writeTransfer_eq]
    exact ⟨rfl, rfl, rfl⟩
  | fill => exact (fillStep_frame s).1.sameCommand
  | reopen => exact (reopenStep_frame s).1.sameCommand

/-- A validation goes on where it passes and ends the command where it fails (R56, R151). -/
theorem validateStep_ends_or_goesOn {i : Instr} {s : State} (hi : i ≠ .reset) (hx : s.xstep = .s3) :
    CommandEnds i s (validateStep s) ∨ CommandGoesOn s (validateStep s) := by
  rcases validateStep_cases s with ⟨-, e⟩ | e <;> rw [e]
  · exact .inr ⟨rfl, rfl, rfl, by rw [hx]; rfl⟩
  · rw [finish_eq]
    exact .inl ⟨rfl, rfl, (if_neg hi).symm⟩

/-- A completion ends the command (R150). -/
theorem commandEnds_complete {i : Instr} (hi : i ≠ .reset) (p : Byte) (s : State) :
    CommandEnds i s (critical (complete p) s) := by
  rw [critical_complete_eq]
  exact ⟨rfl, rfl, (if_neg hi).symm⟩

/-- A sequence of Store requests followed by the next step index goes on (R153). -/
theorem StoreFrame.goesOn {s t : State} {x : CmdStep} (h : StoreFrame { s with xstep := x } t)
    (hx : x.number = s.xstep.number + 1) : CommandGoesOn s t :=
  ⟨h.dstate, h.rerun, h.pending, by rw [h.xstep]; exact hx⟩

/-- With the STORE answering, every step of a disk command ends the command or takes it to the next step of its list
(R153): no step is repeated. -/
theorem CommandStep.ends_or_goesOn {i : Instr} {s t : State} (h : CommandStep i s t) (hstuck : s.storeStuck = false) :
    CommandEnds i s t ∨ CommandGoesOn s t := by
  cases h with
  | stuck _ _ _ hs => cases hstuck.symm.trans hs
  | reset =>
    obtain ⟨-, -, -, -, -, -, -, -, -, -, -, -, -, -, -, -, hidle, hpending, hrerun, -⟩ := resetStep_frame s
    exact .inl ⟨hidle, hrerun, hpending⟩
  | validate _ _ hi hx => exact validateStep_ends_or_goesOn (by rcases hi with rfl | rfl <;> nofun) hx
  | validateFormat _ hx => exact validateStep_ends_or_goesOn (s := clearSector s) nofun hx
  | readTransfer _ hx =>
    rw [readTransfer_eq]
    exact .inr ⟨rfl, rfl, rfl, by rw [hx]; rfl⟩
  | writeTransfer _ hx =>
    rw [writeTransfer_eq]
    exact .inr ⟨rfl, rfl, rfl, by rw [hx]; rfl⟩
  | fill _ hx => exact .inr ((fillStep_frame s).1.goesOn (by rw [hx]; rfl))
  | reopen _ _ _ hx => exact .inr ((reopenStep_frame s).1.goesOn (by rw [hx]; rfl))
  | params _ hx => exact .inr ⟨rfl, rfl, rfl, by rw [hx]; rfl⟩
  | fifo => exact .inl (commandEnds_complete (i := .fifo) nofun stFdone (fifoReset s))
  | complete _ _ p _ hi => exact .inl (commandEnds_complete hi p s)

end Sys2Proof.Machine
end

/-! ## Undisturbed runs of the dispatcher (R145, R153) -/
section
namespace Sys2Proof.Machine

/-- A legal state in which only the dispatcher acts, and the STORE answers it (R60, R68). -/
def Undisturbed (s : State) : Prop := Legal s ∧ s.wait = false ∧ s.hostEvents = [] ∧ s.storeStuck = false

/-- No turn of the dispatcher wakes the HOST or silences the STORE (R31). -/
theorem dispatcherTurn_keeps_quiet {s t : State} (h : dispatcherTurn s = .next t) :
    t.wait = s.wait ∧ t.hostEvents = s.hostEvents ∧ t.storeStuck = s.storeStuck := by
  rcases dispatcherTurn_cases h with ⟨-, -, rfl⟩ | ⟨-, -, rfl⟩ | ⟨-, rfl⟩ | ⟨-, hexec⟩
  · exact ⟨rfl, rfl, rfl⟩
  · exact ⟨rfl, rfl, rfl⟩
  · exact ⟨rfl, rfl, rfl⟩
  · have hstep := commandStep_of_exec (decodeCommand_isBus _) hexec
    obtain ⟨-, ⟨-, -, -, hevents⟩, hwait, -⟩ := hstep.handlerSideSame
    obtain ⟨-, -, hstuck⟩ := hstep.sameCommand
    exact ⟨hwait, hevents, hstuck⟩

/-- An undisturbed state's step is the dispatcher's, which answers and leaves an undisturbed state. -/
theorem Undisturbed.step_next {s : State} (h : Undisturbed s) :
    ∃ t, step s = .next t ∧ dispatcherTurn s = .next t ∧ Undisturbed t := by
  obtain ⟨hlegal, hwait, hevents, hstuck⟩ := h
  obtain ⟨t, hturn⟩ := dispatcherTurn_answers hlegal
  obtain ⟨hwait', hevents', hstuck'⟩ := dispatcherTurn_keeps_quiet hturn
  exact ⟨t, (step_quiet hwait hevents).trans hturn, hturn, legal_dispatcherTurn hlegal hturn, hwait'.trans hwait,
    hevents'.trans hevents, hstuck'.trans hstuck⟩

/-- The dispatcher is back at Idle after command `op` on drive `d`; a Reset owed (`rerun`) is left pending, unless the
command was itself a Reset (R150, R157). -/
def BackAtIdle (op : Opcode) (d : Slot) (rerun : Bool) (t : State) : Prop :=
  t.dstate = .idle ∧ t.xcmd = op ∧ t.xdrv = d ∧ t.rerun = false ∧ t.pending = (rerun && decide (op ≠ 0x00))

/-- A run of at least one and at most `k` steps from `s` ends in a state with `p`. -/
def ReachesWithin (k : Nat) (p : State → Prop) (s : State) : Prop :=
  ∃ (n : Nat) (t : State), 0 < n ∧ n ≤ k ∧ Host.Core.run core n s = .next t ∧ p t

theorem ReachesWithin.of_step {k : Nat} {p : State → Prop} {s t : State} (h : step s = .next t) (hp : p t) :
    ReachesWithin (k + 1) p s :=
  ⟨1, t, Nat.one_pos, Nat.le_add_left _ _, run_succ 0 h, hp⟩

theorem ReachesWithin.cons {k : Nat} {p : State → Prop} {s t : State} (h : step s = .next t)
    (hreach : ReachesWithin k p t) : ReachesWithin (k + 1) p s := by
  obtain ⟨n, u, -, hle, hrun, hp⟩ := hreach
  exact ⟨n + 1, u, n.succ_pos, Nat.succ_le_succ hle, (run_succ n h).trans hrun, hp⟩

theorem decodeCommand_eq_reset_iff (op : Opcode) : decodeCommand op = .reset ↔ op = 0x00 := by
  revert op
  decide

/-- A step that ends the running command of a legal state leaves the dispatcher back at Idle: PENDING is set while a
re-run is owed (R15). -/
theorem backAtIdle_of_commandEnds {s t : State} (hlegal : Legal s) (hends : CommandEnds (decodeCommand s.xcmd) s t)
    (hsame : SameCommand s t) : BackAtIdle s.xcmd s.xdrv s.rerun t := by
  obtain ⟨hidle, hrerun, hpending⟩ := hends
  obtain ⟨hxcmd, hxdrv, -⟩ := hsame
  have howed : (s.rerun && s.pending) = s.rerun := Bool.and_eq_left_iff_imp.mpr hlegal.rerunOnlyPending
  refine ⟨hidle, hxcmd, hxdrv, hrerun, hpending.trans ?_⟩
  by_cases hreset : s.xcmd = 0x00
  · rw [if_pos ((decodeCommand_eq_reset_iff _).mpr hreset), decide_eq_false (not_not.mpr hreset), Bool.and_false]
  · rw [if_neg (mt (decodeCommand_eq_reset_iff _).mp hreset), howed, decide_eq_true hreset, Bool.and_true]

/-- The numbers of R153's steps are 3 to 6. -/
theorem CmdStep.number_le (x : CmdStep) : x.number ≤ 6 := by
  cases x <;> decide

/-- A running command is back at Idle within the steps its list can still have: each step ends it or moves the step index
on, which stops at 6 (R153). -/
theorem executing_backAtIdle (k : Nat) : ∀ {s : State}, Undisturbed s → s.dstate = .executing →
    7 ≤ s.xstep.number + k → ReachesWithin k (BackAtIdle s.xcmd s.xdrv s.rerun) s := by
  induction k with
  | zero =>
    intro s _ _ hk
    have := s.xstep.number_le
    omega
  | succ k ih =>
    intro s h hd hk
    obtain ⟨t, hstep, hturn, ht⟩ := h.step_next
    obtain ⟨hlegal, -, -, hstuck⟩ := h
    have hcommand := commandStep_of_exec (decodeCommand_isBus _) ((dispatcherTurn_executing hd).symm.trans hturn)
    have hsame := hcommand.sameCommand
    rcases hcommand.ends_or_goesOn hstuck with hends | ⟨hdstate, hrerun, -, hnumber⟩
    · exact .of_step hstep (backAtIdle_of_commandEnds hlegal hends hsame)
    · obtain ⟨hxcmd, hxdrv, -⟩ := hsame
      rw [← hxcmd, ← hxdrv, ← hrerun]
      exact .cons hstep (ih ht (hdstate.trans hd) (by omega))

/-- A command already entered is back at Idle within the Dispatch step and four steps of its own (R148, R153). -/
theorem entered_backAtIdle {s : State} (h : Undisturbed s) (hd : s.dstate ≠ .idle) :
    ReachesWithin 5 (BackAtIdle s.xcmd s.xdrv s.rerun) s := by
  cases hdstate : s.dstate with
  | idle => exact absurd hdstate hd
  | decoding =>
    obtain ⟨t, hstep, hturn, ht⟩ := h.step_next
    cases (dispatcherTurn_decoding hdstate).symm.trans hturn
    exact .cons hstep (executing_backAtIdle 4 ht rfl (le_refl 7))
  | executing => exact executing_backAtIdle 5 h hdstate (by cases s.xstep <;> decide)

/-- Settles O47: a command entered is back at Idle within five steps, and one that is pending is entered by one step. -/
theorem everyCommandReturnsToIdle : Obligations.EveryCommandReturnsToIdle := by
  intro s hlegal hwait hevents hstuck
  have h : Undisturbed s := ⟨hlegal, hwait, hevents, hstuck⟩
  refine ⟨fun hd hp => ?_, fun hd => entered_backAtIdle h hd⟩
  obtain ⟨t, hstep, hturn, ht⟩ := h.step_next
  cases (dispatcherTurn_pending hd hp).symm.trans hturn
  obtain ⟨n, u, hpos, hle, hrun, hback⟩ := entered_backAtIdle ht nofun
  exact ⟨n + 1, u, Nat.succ_lt_succ hpos, Nat.succ_le_succ hle, (run_succ n hstep).trans hrun, hback⟩

end Sys2Proof.Machine
end

/-! # Family 44_commands: Access FIFO, Read parameters, unknown commands, and who may change the error bit -/

/-! ## The commands that finish in one step: Access FIFO and unknown (R170, R172, R195) -/
section
namespace Sys2Proof.Machine

/-- Access FIFO's one step is the cursor reset and then the completion (R170). -/
theorem exec_fifo_eq (s : State) : exec .fifo s = .next (critical (complete stFdone) (fifoReset s)) := rfl

/-- An unknown command's one step is the completion alone: its condition has no action (R172, R190, R195). -/
theorem exec_unknown_eq (op : Opcode) (s : State) : exec (.unknown op) s = .next (critical (complete stData) s) := rfl

theorem pattern_completed (p : Byte) (s : State) : pattern (critical (complete p) s).status = pattern p :=
  pattern_setPattern p s.status

theorem errorBit_completed (p : Byte) (s : State) :
    errorBit (critical (complete p) s).status = errorBit s.status :=
  errorBit_setPattern p s.status

theorem finished_completed (p : Byte) (s : State) : Finished s (critical (complete p) s) := by
  rw [critical_complete_eq]
  exact ⟨rfl, rfl, rfl⟩

/-- Settles O38: the step completes the state whose cursor is reset; no other field of that state differs from `s`. -/
theorem accessFifoResetsCursor : Obligations.AccessFifoResetsCursor := by
  obtain ⟨-, -, -, -, hdecode, -⟩ := opcodeMapSixNamedRestUnknown
  refine ⟨by decide, hdecode, fun s => ⟨_, exec_fifo_eq s, fifoReset_cur s, fifoByte_congr rfl, ?_⟩⟩
  exact ⟨pattern_completed stFdone _, errorBit_completed stFdone _, finished_completed stFdone (fifoReset s),
    rfl, rfl, rfl, rfl, rfl, rfl, rfl, rfl, ⟨rfl, rfl, rfl, rfl⟩, .refl s⟩

/-- Settles O40: the step is the completion, from any state and for any opcode. -/
theorem unknownCommandCompletesSilently : Obligations.UnknownCommandCompletesSilently := by
  intro s op
  exact ⟨_, exec_unknown_eq op s, pattern_completed stData s, errorBit_completed stData s,
    finished_completed stData s, rfl, rfl, rfl, rfl, rfl, rfl, rfl, rfl, sameFifo_of_eq rfl rfl,
    ⟨rfl, rfl, rfl, rfl⟩, .refl s⟩

end Sys2Proof.Machine
end

/-! ## Read parameters' table (R171) -/
section
namespace Sys2Proof.Machine

/-- Read parameters' first step is the transfer of its table (R153, R171). -/
theorem exec_params_s3 {s : State} (hx : s.xstep = .s3) : exec .params s = .next (paramsTransfer s) := by
  simp only [exec, execParams, hx]

/-- Settles O39: the FIFO's bytes are those of `fifoByte_paramsTransfer`, every other field is that of
`paramsTransfer_eq`. -/
theorem readParametersEmitsTable : Obligations.ReadParametersEmitsTable := by
  intro s hx
  have htable : ∀ k, k < 108 → (paramsTransfer s).fifoByte k = Config.paramByte k :=
    fun k hk => (fifoByte_paramsTransfer s k).trans (if_pos hk)
  have hkept : ∀ k, 108 ≤ k → (paramsTransfer s).fifoByte k = s.fifoByte k :=
    fun k hk => (fifoByte_paramsTransfer s k).trans (if_neg hk.not_gt)
  refine ⟨paramsTransfer s, exec_params_s3 hx, htable, hkept, ?_⟩
  rw [paramsTransfer_eq]
  exact ⟨rfl, rfl, rfl, rfl, rfl, rfl, rfl, ⟨rfl, rfl, rfl, rfl, rfl, rfl⟩, ⟨rfl, rfl, rfl, rfl⟩, .refl s⟩

end Sys2Proof.Machine
end

/-! ## The error bit (R16, R175) -/
section
namespace Sys2Proof.Machine

/-- Every step of the other three commands keeps the error bit: it waits on the STORE, moves the table, or completes with
a pattern (R170 to R172, R175). -/
theorem CommandStep.errorBit_eq {i : Instr} {s t : State} (h : CommandStep i s t) (hreset : i ≠ .reset)
    (hread : i ≠ .read) (hwrite : i ≠ .write) (hformat : i ≠ .format) : errorBit t.status = errorBit s.status := by
  cases h with
  | stuck => rfl
  | reset => exact absurd rfl hreset
  | validate _ _ hi => exact (hi.elim hread hwrite).elim
  | validateFormat => exact absurd rfl hformat
  | readTransfer => exact absurd rfl hread
  | writeTransfer => exact absurd rfl hwrite
  | fill => exact absurd rfl hformat
  | reopen _ _ hi => exact (hi.elim hwrite hformat).elim
  | params => rw [paramsTransfer_eq]
  | fifo => exact errorBit_completed stFdone (fifoReset s)
  | complete _ _ p => exact errorBit_completed p s

/-- A bus transaction writes STATUS's pattern at most (R16, R175). -/
theorem busStep_errorBit_eq {i : Instr} {s t : State} (hb : i.isBus = true) (h : exec i s = .next t) :
    errorBit t.status = errorBit s.status := by
  obtain ⟨u, rfl, hframe⟩ := busStep_ends_in_endService hb h
  obtain ⟨-, -, herror⟩ := hframe.endService
  exact herror

/-- Settles O54: the handler's instructions by their frame, the dispatcher's by the kinds of command steps. -/
theorem errorBitChangedByFourCommandsOnly : Obligations.ErrorBitChangedByFourCommandsOnly := by
  intro i s t hreset hread hwrite hformat h
  cases hb : i.isBus with
  | true => exact busStep_errorBit_eq hb h
  | false => exact (commandStep_of_exec hb h).errorBit_eq hreset hread hwrite hformat

end Sys2Proof.Machine
end

/-! # Family 70_reset_and_hazards: power-on reset as a procedure -/

/-! ## POR and the reset state (R226) -/
section
namespace Sys2Proof.Machine

/-- Every slot's geometry carries the slot's read-only flag (R7). -/
theorem geom_ro (d : Slot) : (Config.geom d).ro = Config.readOnly d := by
  unfold Config.geom
  split
  · next hd => rw [hd]
  · split <;> rfl

/-- Power-on's open follows the STORE's rule for opens, its medium the platform's (R51, log 16). -/
theorem powerOnOpen_eq_answerOpens (d : Slot) (n : Nat) :
    powerOnOpen d n = answerOpens (Config.storeAnswer n) (Config.mediaPresent d) := by
  unfold powerOnOpen answerOpens
  cases Config.storeAnswer n <;> rfl

/-- Which answer opens a populated drive past the script's end: that of the request after the close (R173, log 6). -/
theorem openOk_storeClose_unscripted (d : Slot) {s : State} (h : s.storeAnswers = []) :
    openOk d (storeClose d s) = answerOpens (Config.storeAnswer (s.storeReqs + 1)) (s.disk.get d).media := by
  have hn : (storeClose d s).nextAnswer = Config.storeAnswer (s.storeReqs + 1) := by
    simp [State.nextAnswer, storeClose, State.setDisk, State.issue, h]
  simp [openOk, hn]

/-- Which requests open drives 0 and 3 in reinitialisation past the script's end, drives 1 and 2 being closed already and
so taking no request: the second and the fourth (R173, log 8). -/
theorem reinitOpen_unscripted {s : State} (h : s.storeAnswers = []) (h1 : (s.disk.get 1).isOpen = false)
    (h2 : (s.disk.get 2).isOpen = false) :
    reinitOpen0 s = answerOpens (Config.storeAnswer (s.storeReqs + 1)) (s.disk.get 0).media ∧
      reinitOpen3 s = answerOpens (Config.storeAnswer (s.storeReqs + 3)) (s.disk.get 3).media := by
  have hanswers : (reinitClosed s).storeAnswers = [] := by
    rw [reinitClosed_eq]
    exact h
  have hreqs : (reinitClosed s).storeReqs = s.storeReqs := by
    rw [reinitClosed_eq, h1, h2]
    rfl
  have hanswers3 : (openPopulated 0 (reinitClosed s)).storeAnswers = [] := by
    rw [openPopulated_eq]
    simp [hanswers]
  have hreqs3 : (openPopulated 0 (reinitClosed s)).storeReqs = s.storeReqs + 2 := by
    rw [openPopulated_eq, hreqs]
  constructor
  · rw [reinitOpen0, openOk_storeClose_unscripted 0 hanswers, hreqs, reinitClosed_eq]
    rfl
  · rw [reinitOpen3, openOk_storeClose_unscripted 3 hanswers3, hreqs3, openPopulated_eq, reinitClosed_eq]
    rfl

/-- Reinitialisation's open of a file as the platform left it makes it the file after power-on (R173, log 16). -/
theorem reopened_powerOn (d : Slot) (ok : Bool) :
    (DiskFile.powerOn d false).reopened ok (Config.geom d).ro = DiskFile.powerOn d ok := by
  rw [geom_ro]
  rfl

/-- What POR forces before it reinitialises (R226). -/
def porForced (s : State) : State :=
  { s with
    wait := false
    dbdir := .input
    excl := false
    cur := 0
    overrun := false
    viol := false
    dstate := .idle }

theorem powerOnReset_eq_reinit (s : State) : powerOnReset s = reinit (porForced s) := rfl

/-- Settles O58: `reinit_eq` gives all that POR does; with its requests numbered from 0 and no script its two opens are
the reset state's, and the fields it leaves alone are those the premises fix. -/
theorem resetIsThePowerOnProcedure : Obligations.ResetIsThePowerOnProcedure := by
  intro s hfifo hxstep hxcmd hxdrv hcapOff hcapData hcapDir hdisk hevents hreads hanswers hreqs hstuck
  have hclosed : ∀ d, ((porForced s).disk.get d).isOpen = false := fun d => congrArg DiskFile.isOpen (hdisk d)
  have hmedia : ∀ d, ((porForced s).disk.get d).media = Config.mediaPresent d :=
    fun d => congrArg DiskFile.media (hdisk d)
  have hnone : (porForced s).storeReqs = 0 := hreqs
  obtain ⟨hopen0, hopen3⟩ := reinitOpen_unscripted (s := porForced s) hanswers (hclosed 1) (hclosed 2)
  rw [hnone, hmedia, ← powerOnOpen_eq_answerOpens] at hopen0 hopen3
  rw [powerOnReset_eq_reinit, reinit_eq, hopen0, hopen3]
  simp only [reinitControl, porForced, hdisk, reopened_powerOn, hfifo, hxstep, hxcmd, hxdrv, hcapOff, hcapData, hcapDir,
    hevents, hreads, hanswers, hreqs, hstuck]
  rfl

end Sys2Proof.Machine
end
